-- ==== Sys2Proof/Word.lean ====
section
/-! DEFINITION. The word types of the block: every register value is an unsigned integer of stated width (R7). -/

namespace Sys2Proof

/-- An 8-bit value: a byte of memory, a general register, a timer. -/
abbrev Byte := BitVec 8

/-- A 16-bit value: an opcode, `I`, `PC`, a stack entry. -/
abbrev Word := BitVec 16

/-- A 4-bit register number, the field `x` or `y` (R9, R71). -/
abbrev RegIdx := BitVec 4

/-- A 4-bit immediate `n` or the class nibble `c` (R71). -/
abbrev Nibble := BitVec 4

/-- A 12-bit address `nnn` (R71). -/
abbrev Addr := BitVec 12

/-- Key flags, one for each of the 16 keys (R30). -/
abbrev Keys := Vector Bool 16

/-- The display: 32 rows of 64 pixels, `true` is lit (R29). -/
abbrev Display := Vector (Vector Bool 64) 32

end Sys2Proof
end

