-- ==== Sys2Proof/Syntax.lean ====
section
/-! DEFINITION. The instruction set: one constructor for each row of spec/opcode_table.json (R74). A field has exactly the width its encoding gives it (R71), so every term is an instruction of the block. -/

namespace Sys2Proof

inductive Instr where
  /-- 00E0 CLS (R201). -/
  | cls
  /-- 00EE RET (R131). -/
  | ret
  /-- 1NNN JP nnn (R132). -/
  | jp (nnn : Addr)
  /-- 2NNN CALL nnn (R133). -/
  | call (nnn : Addr)
  /-- 3XNN SE Vx, nn (R135). -/
  | seImm (x : RegIdx) (nn : Byte)
  /-- 4XNN SNE Vx, nn (R136). -/
  | sneImm (x : RegIdx) (nn : Byte)
  /-- 5XY0 SE Vx, Vy (R137). -/
  | seReg (x y : RegIdx)
  /-- 6XNN LD Vx, nn (R150). -/
  | ldImm (x : RegIdx) (nn : Byte)
  /-- 7XNN ADD Vx, nn (R151). -/
  | addImm (x : RegIdx) (nn : Byte)
  /-- 8XY0 LD Vx, Vy (R152). -/
  | ldReg (x y : RegIdx)
  /-- 8XY1 OR Vx, Vy (R153). -/
  | orReg (x y : RegIdx)
  /-- 8XY2 AND Vx, Vy (R154). -/
  | andReg (x y : RegIdx)
  /-- 8XY3 XOR Vx, Vy (R155). -/
  | xorReg (x y : RegIdx)
  /-- 8XY4 ADD Vx, Vy (R156). -/
  | addReg (x y : RegIdx)
  /-- 8XY5 SUB Vx, Vy (R157). -/
  | subReg (x y : RegIdx)
  /-- 8XY6 SHR Vx, Vy (R158). -/
  | shr (x y : RegIdx)
  /-- 8XY7 SUBN Vx, Vy (R159). -/
  | subnReg (x y : RegIdx)
  /-- 8XYE SHL Vx, Vy (R160). -/
  | shl (x y : RegIdx)
  /-- 9XY0 SNE Vx, Vy (R138). -/
  | sneReg (x y : RegIdx)
  /-- ANNN LD I, nnn (R180). -/
  | ldI (nnn : Addr)
  /-- BNNN JP V0, nnn (R134). -/
  | jpV0 (nnn : Addr)
  /-- CXNN RND Vx, nn (R161). -/
  | rnd (x : RegIdx) (nn : Byte)
  /-- DXYN DRW Vx, Vy, n (R202). -/
  | drw (x y : RegIdx) (n : Nibble)
  /-- EX9E SKP Vx (R221). -/
  | skp (x : RegIdx)
  /-- EXA1 SKNP Vx (R222). -/
  | sknp (x : RegIdx)
  /-- FX07 LD Vx, DT (R223). -/
  | ldVxDt (x : RegIdx)
  /-- FX0A LD Vx, K (R226). -/
  | ldVxK (x : RegIdx)
  /-- FX15 LD DT, Vx (R224). -/
  | ldDtVx (x : RegIdx)
  /-- FX18 LD ST, Vx (R225). -/
  | ldStVx (x : RegIdx)
  /-- FX1E ADD I, Vx (R181). -/
  | addI (x : RegIdx)
  /-- FX29 LD F, Vx (R182). -/
  | ldF (x : RegIdx)
  /-- FX33 LD B, Vx (R183). -/
  | ldB (x : RegIdx)
  /-- FX55 LD [I], Vx (R184). -/
  | dump (x : RegIdx)
  /-- FX65 LD Vx, [I] (R185). -/
  | load (x : RegIdx)
  deriving DecidableEq, Repr

end Sys2Proof
end

