-- ==== Sys2Proof/Config.lean ====
section
/-! DEFINITION. What is fixed for a session, the parameters of 00_scope.md R5, as plain data with the check R5 puts on them. And the free values: constants without a body, so nothing can be proved of their values. -/

namespace Sys2Proof

/-- SHIFT_QUIRK (R5, R158, R160). -/
inductive ShiftQuirk where
  | legacyVy
  | modernVx
  deriving DecidableEq, Repr

/-- INDEX_INCREMENT_QUIRK (R5, R184, R185). -/
inductive IndexQuirk where
  | increment
  | unchanged
  deriving DecidableEq, Repr

/-- SPRITE_EDGE (R5, R203). -/
inductive SpriteEdge where
  | clip
  | wrap
  deriving DecidableEq, Repr

/-- MISALIGNED_PC (R5, R55, R102). -/
inductive MisalignedPc where
  | allow
  | fault
  deriving DecidableEq, Repr

/-- DRAW_Y_MODULUS, 32 or 64 (R5, R202, 90_conflicts.md C1). -/
inductive DrawYModulus where
  | rows32
  | rows64
  deriving DecidableEq, Repr

/-- TICK_ORDER (R5, R107). -/
inductive TickOrder where
  | cyclesThenTick
  | tickThenCycles
  deriving DecidableEq, Repr

/-- The parameters of a session (R5). KEY_CHOICE and RANDOM, the last two rows of R5's table, are the free values below. -/
structure Params where
  /-- CLOCK_HZ, instruction cycles a second. -/
  clockHz : Nat
  /-- STACK_DEPTH. -/
  stackDepth : Nat
  /-- SHIFT_QUIRK. -/
  shiftQuirk : ShiftQuirk
  /-- INDEX_INCREMENT_QUIRK. -/
  indexQuirk : IndexQuirk
  /-- SPRITE_EDGE. -/
  spriteEdge : SpriteEdge
  /-- DRAW_SYNC, which has no effect on any state (R111). -/
  drawSync : Bool
  /-- FONT_BASE. -/
  fontBase : Nat
  /-- FONT_TABLE. -/
  fontTable : List Byte
  /-- VF_RESET_ON_LOGIC. -/
  vfResetOnLogic : Bool
  /-- MISALIGNED_PC. -/
  misalignedPc : MisalignedPc
  /-- DRAW_Y_MODULUS. -/
  drawYModulus : DrawYModulus
  /-- TICK_ORDER. -/
  tickOrder : TickOrder
  deriving DecidableEq, Repr

/-- R5's constraints: CLOCK_HZ and STACK_DEPTH are positive, `FONT_BASE + 80 <= 0x200`, FONT_TABLE is 80 bytes. -/
def Params.valid (p : Params) : Bool :=
  decide (0 < p.clockHz) && decide (0 < p.stackDepth) && decide (p.fontBase + 80 ≤ 0x200) &&
    decide (p.fontTable.length = 80)

/-- RANDOM (R5, R161): the byte of the n-th free draw. No law is assumed of it (log entry 3). -/
opaque Config.randomByte : Nat → Byte

/-- KEY_CHOICE (R5, R105): which member of the set of newly pressed keys the n-th free draw takes, counted round the set (log entry 4). -/
opaque Config.keyPick : Nat → Nat

/-- One host call `set_key(key, pressed)` (R114). -/
structure KeyCall where
  key : RegIdx
  pressed : Bool
  deriving DecidableEq, Repr

/-- The host's key calls at its n-th turn, a turn standing before every step: the free key history of R114 and D42, with no law and no end (log entry 5). -/
opaque Config.hostCalls : Nat → List KeyCall

end Sys2Proof
end

