-- ==== Sys2Proof/Machine/Defaults.lean ====
section
/-! DEFINITION. The default parameters of R5 and the reference values of FONT_BASE (D4) and FONT_TABLE (R58), which State.reset starts from (log entry 2). -/

namespace Sys2Proof.Machine

/-- The conventional font of R58, 16 glyphs of 5 bytes. -/
def referenceFont : List Byte :=
  [0xF0, 0x90, 0x90, 0x90, 0xF0, 0x20, 0x60, 0x20, 0x20, 0x70,
    0xF0, 0x10, 0xF0, 0x80, 0xF0, 0xF0, 0x10, 0xF0, 0x10, 0xF0] ++
  [0x90, 0x90, 0xF0, 0x10, 0x10, 0xF0, 0x80, 0xF0, 0x10, 0xF0,
    0xF0, 0x80, 0xF0, 0x90, 0xF0, 0xF0, 0x10, 0x20, 0x40, 0x40] ++
  [0xF0, 0x90, 0xF0, 0x90, 0xF0, 0xF0, 0x90, 0xF0, 0x10, 0xF0,
    0xF0, 0x90, 0xF0, 0x90, 0x90, 0xE0, 0x90, 0xE0, 0x90, 0xE0] ++
  [0xF0, 0x80, 0x80, 0x80, 0xF0, 0xE0, 0x90, 0x90, 0x90, 0xE0,
    0xF0, 0x80, 0xF0, 0x80, 0xF0, 0xF0, 0x80, 0xF0, 0x80, 0x80]

/-- R5's default column. -/
def defaultParams : Params where
  clockHz := 500
  stackDepth := 16
  shiftQuirk := .legacyVy
  indexQuirk := .increment
  spriteEdge := .clip
  drawSync := true
  fontBase := 0x050
  fontTable := referenceFont
  vfResetOnLogic := false
  misalignedPc := .allow
  drawYModulus := .rows32
  tickOrder := .cyclesThenTick

end Sys2Proof.Machine
end

