-- ==== Sys2Proof/Machine/State.lean ====
section
/-! DEFINITION. The state of the block (R20), with the error records it halts on (R240 to R242), the model's own bookkeeping fields, and the state after reset (R35). -/

namespace Sys2Proof.Machine

/-- The record of a fatal error: which error (R240, R241), with exactly the fields its row names; the others are absent (R242). Raising one is a NEXT state with mode `halted` (R243, log entry 10). -/
inductive FatalError where
  /-- Code 1: `load` was given a program of `len` bytes, more than 3584. -/
  | loadError (len : Nat)
  /-- Code 2: the word fetched from `pc` is no instruction. -/
  | unknownOpcode (pc opcode : Word)
  /-- Code 3: CALL with STACK_DEPTH entries in use. -/
  | stackOverflow (pc opcode : Word)
  /-- Code 4: RET with no entry in use. -/
  | stackUnderflow (pc opcode : Word)
  /-- Code 5: an access above 0xFFF; `opcode` is absent for a fetch. -/
  | addressOutOfRange (pc : Word) (opcode : Option Word) (addr : Nat)
  /-- Code 6: SKP or SKNP on a value that names no key. -/
  | keyIndexOutOfRange (pc opcode : Word) (value : Byte)
  /-- Code 7: a fetch from an odd address under MISALIGNED_PC = fault. -/
  | misalignedPC (pc : Word)
  deriving DecidableEq, Repr

/-- The executor's mode (R31). -/
inductive Mode where
  /-- Each cycle fetches and executes one instruction. -/
  | running
  /-- A key-wait into `V[x]`, with the key snapshot it compares against. -/
  | waiting (x : RegIdx) (snap : Keys)
  /-- A fatal error ended the session. -/
  | halted (err : FatalError)
  deriving DecidableEq, Repr

/-- Where in R107's `frame()` the scheduler stands (log entry 7). -/
inductive Phase where
  /-- Between two frames: the next step opens one. -/
  | between
  /-- In a frame with `n` cycles still to run: at 0 the next step closes it. -/
  | inFrame (n : Nat)
  deriving DecidableEq, Repr

/-- Why a step stops with no next state. The block's own fatal errors are not here: each is a next state with mode `halted` (R243). -/
inductive Fault where
  /-- Raised by `step` alone, where the session's parameters break R5's constraints, so that the spec describes no such machine. SAFE: the model stops (log entry 12). -/
  | invalidParams
  deriving DecidableEq, Repr

/-- Why an instruction has no meaning here. -/
inductive Refusal where
  /-- Raised by an arm of `exec` whose instruction has no meaning yet. SAFE: the model stops. No arm raises it now. -/
  | notModelled (mnemonic : String)
  deriving DecidableEq, Repr

/-- The state of the block. Fields `mem` to `credit` are R20's record; the rest are the model's own. -/
structure State where
  /-- `M`: the cells that differ from what an unlisted address reads as, by rising address (R50, log entry 9). -/
  mem : List Host.Cell
  /-- `V0` to `VF` (R21). -/
  v : Vector Byte 16
  /-- The index register `I` (R24). -/
  i : Word
  /-- The program counter (R25). -/
  pc : Word
  /-- The call stack `S`, STACK_DEPTH entries, the stale ones too (R26). -/
  stack : List Word
  /-- `SP`, the count of entries in use (R26). -/
  sp : Nat
  /-- The delay timer (R27). -/
  dt : Byte
  /-- The sound timer (R28). -/
  st : Byte
  /-- The display `D`, row by row (R29). -/
  display : Display
  /-- The key flags `K`, written by the host (R30). -/
  keys : Keys
  /-- The executor mode (R31). -/
  mode : Mode
  /-- The scheduler remainder (R32). -/
  credit : Nat
  /-- The model's own: the session's parameters, which no step changes (R5, log entry 1). -/
  params : Params
  /-- The model's own: where in a frame the scheduler stands (R107, log entry 7). -/
  phase : Phase
  /-- The model's own: redraw signals sent so far, an output (R110, log entry 8). -/
  redraws : Nat
  /-- The model's own: free draws taken so far (log entries 3 and 4). -/
  draws : Nat
  /-- The model's own: host turns taken so far, which select the host's free key calls (R114, log entry 5). -/
  turns : Nat
  deriving DecidableEq, Repr

/-- The state after `load` of no bytes under the parameters `p` (R35, R270): memory lists nothing, since an unlisted address reads as its reset contents. The counters of free draws and host turns start at 0, so two sessions begun here meet the same free values (DESIGN CHOICE, log entry 21). -/
def State.initial (p : Params) : State where
  mem := []
  v := Vector.replicate 16 0
  i := 0
  pc := 0x200
  stack := List.replicate p.stackDepth 0
  sp := 0
  dt := 0
  st := 0
  display := Vector.replicate 32 (Vector.replicate 64 false)
  keys := Vector.replicate 16 false
  mode := .running
  credit := 0
  params := p
  phase := .between
  redraws := 0
  draws := 0
  turns := 0

/-- The machine right after reset, under the default parameters (R5, R35). A program comes into memory only through `load` (R270, log entry 13). -/
def State.reset : State := State.initial defaultParams

/-- What an instruction, a cycle or a step answers. -/
abbrev Result := Host.Outcome State Fault Refusal

end Sys2Proof.Machine
end

