-- ==== Sys2Proof/Machine/Ops.lean ====
section
/-! DEFINITION. The named operations over memory, registers, the call stack and the mode: every meaning reads and writes the state through these. Raising a fatal error, the block's only exception, stands here once. -/

namespace Sys2Proof.Machine

/-! ### Memory (R50 to R53) -/

/-- What an address that the memory list does not hold reads as: its reset contents, the font byte at FONT_BASE and up, 0 elsewhere (R35, R57). -/
def unlistedByte (p : Params) (a : Nat) : Byte :=
  if p.fontBase ≤ a ∧ a < p.fontBase + 80 then p.fontTable.getD (a - p.fontBase) 0 else 0

/-- The byte at `a`, over the unlisted contents `d`. -/
def Memory.read (d : Nat → Byte) : List Host.Cell → Nat → Byte
  | [], a => d a
  | (b, u) :: rest, a => if a = b then u else Memory.read d rest a

/-- The memory after byte `x` is written at `a`, in canonical form. -/
def Memory.write (d : Nat → Byte) : List Host.Cell → Nat → Byte → List Host.Cell
  | [], a, x => if x = d a then [] else [(a, x)]
  | (b, u) :: rest, a, x =>
    if a < b then (if x = d a then (b, u) :: rest else (a, x) :: (b, u) :: rest)
    else if a = b then (if x = d a then rest else (a, x) :: rest)
    else (b, u) :: Memory.write d rest a x

/-- Every address listed lies above `a`. -/
def Memory.above (a : Nat) (m : List Host.Cell) : Bool := m.all fun c => decide (a < c.1)

/-- The canonical form: addresses below 0x1000 and strictly rising, no entry equal to the unlisted contents. -/
def Memory.wf (d : Nat → Byte) : List Host.Cell → Bool
  | [] => true
  | (a, x) :: rest => decide (a < 0x1000) && decide (x ≠ d a) && Memory.above a rest && Memory.wf d rest

/-- `MemRead(a, 1)` for an address in range (R51); callers check the range first (R53). -/
def State.readByte (s : State) (a : Nat) : Byte := Memory.read (unlistedByte s.params) s.mem a

/-- `MemWrite(a, 1, x)` for an address in range (R52); callers check the range first (R53). -/
def State.writeByte (s : State) (a : Nat) (x : Byte) : State :=
  { s with mem := Memory.write (unlistedByte s.params) s.mem a x }

/-- Bytes written one after another, ascending from `a` (R60). -/
def State.writeBytes (s : State) (a : Nat) : List Byte → State
  | [] => s
  | x :: rest => (s.writeByte a x).writeBytes (a + 1) rest

/-- `n` bytes read, ascending from `a`. -/
def State.readBytes (s : State) (a n : Nat) : List Byte := (List.range n).map fun k => s.readByte (a + k)

/-- `check_range(lo, hi)`: the lowest offending address, if there is one (R53). -/
def rangeError (lo hi : Nat) : Option Nat := if 0xFFF < hi then some (max lo 0x1000) else none

/-! ### Registers -/

/-- The flag register VF is V[15] (R22). -/
def regVF : RegIdx := 0xF

/-- `V[x]` (R8). -/
def State.getV (s : State) (x : RegIdx) : Byte := s.v[x.toNat]'(x.isLt)

/-- `V[x] <- b` (R8). -/
def State.setV (s : State) (x : RegIdx) (b : Byte) : State := { s with v := s.v.set x.toNat b x.isLt }

/-- Bytes put into registers `V[x]`, `V[x+1]`, ... ascending. -/
def State.setVs (s : State) (x : Nat) : List Byte → State
  | [] => s
  | b :: rest => (s.setV (BitVec.ofNat 4 x) b).setVs (x + 1) rest

/-- `I <- w`. -/
def State.setI (s : State) (w : Word) : State := { s with i := w }

/-- `PC <- w`. -/
def State.setPc (s : State) (w : Word) : State := { s with pc := w }

/-- `DT <- b`. -/
def State.setDt (s : State) (b : Byte) : State := { s with dt := b }

/-- `ST <- b`. -/
def State.setSt (s : State) (b : Byte) : State := { s with st := b }

/-- The display written whole. -/
def State.setDisplay (s : State) (d : Display) : State := { s with display := d }

/-- `mode <- m`. -/
def State.setMode (s : State) (m : Mode) : State := { s with mode := m }

/-- The scheduler's place in its frame. -/
def State.setPhase (s : State) (p : Phase) : State := { s with phase := p }

/-- The cycles still to run in the present frame, 0 between frames. -/
def Phase.left : Phase → Nat
  | .between => 0
  | .inFrame n => n

/-- `K[k]` (R8, R30). -/
def State.keyDown (s : State) (k : RegIdx) : Bool := s.keys[k.toNat]'(k.isLt)

/-- `skip_if(cond)`: two more added to the advanced PC (R130). -/
def State.skipIf (s : State) (cond : Bool) : State := s.setPc (if cond then s.pc + 2 else s.pc)

/-! ### Call stack (R26) -/

/-- `S[SP] <- w; SP <- SP + 1` (R133). -/
def State.push (s : State) (w : Word) : State := { s with stack := s.stack.set s.sp w, sp := s.sp + 1 }

/-- `S[SP-1]`, the top entry. -/
def State.top (s : State) : Word := s.stack.getD (s.sp - 1) 0

/-- `SP <- SP - 1`; the popped entry keeps its value (R131). -/
def State.drop (s : State) : State := { s with sp := s.sp - 1 }

/-! ### Free draws -/

/-- The state after one free draw. -/
def State.drawn (s : State) : State := { s with draws := s.draws + 1 }

/-- `draw_random()`: an unconstrained byte (R8, R161). -/
def State.randomByte (s : State) : Byte := Config.randomByte s.draws

/-! ### Raising a fatal error: the block's one exception (R240 to R244)

There is no handler, no vector and no return (R243, R244), so no operation stands beside `raise` for a return. -/

/-- The address `a` the executing instruction was fetched from, which the error record carries (R242): the fetch left `PC = a + 2` and every instruction raises before it writes PC (R101, R243). -/
def State.fetchAddr (s : State) : Word := s.pc - 2

/-- Halt entry: mode becomes `Halted(err)`, nothing else changes (R243). -/
def State.raise (s : State) (e : FatalError) : State := s.setMode (.halted e)

/-- An instruction that accesses `lo` to `hi`: it raises AddressOutOfRange and changes nothing when an address lies above 0xFFF, and goes to `t` otherwise (R53). -/
def rangeChecked (i : Instr) (lo hi : Nat) (s t : State) : Result :=
  match rangeError lo hi with
  | some a => .next (s.raise (.addressOutOfRange s.fetchAddr (some (encode i)) a))
  | none => .next t

end Sys2Proof.Machine
end

