-- ==== Sys2Proof/Machine/Operands.lean ====
section
/-! DEFINITION. Every operand form: immediates, register operands, the shift source, the key index, the glyph address, the BCD digits, addresses from I, the draw origin. -/

namespace Sys2Proof.Machine

/-- `zext_16(nnn)` (R72). -/
def zextAddr (nnn : Addr) : Word := nnn.setWidth 16

/-- `zext_16(b)` of a register value (R134, R181). -/
def zextByte (b : Byte) : Word := b.setWidth 16

/-- The address in `I`, as an unsigned integer (R24, R53). -/
def State.indexAddr (s : State) : Nat := s.i.toNat

/-- The source of a shift: VY under legacy_vy, VX under modern_vx (R158, R160). -/
def State.shiftSource (s : State) (x y : RegIdx) : Byte :=
  match s.params.shiftQuirk with
  | .legacyVy => s.getV y
  | .modernVx => s.getV x

/-- `key_index(v)`: the key a value names, none above 15 (R220). -/
def keyIndex (b : Byte) : Option RegIdx := if b.toNat ≤ 15 then some (b.setWidth 4) else none

/-- `FONT_BASE + 5 * (b & 0x0F)` (R182). -/
def State.glyphAddr (s : State) (b : Byte) : Word :=
  BitVec.ofNat 16 (s.params.fontBase + 5 * (b &&& 0x0F).toNat)

/-- Hundreds, tens and units, in that order (R183). -/
def bcdDigits (b : Byte) : List Byte :=
  [BitVec.ofNat 8 (b.toNat / 100), BitVec.ofNat 8 (b.toNat / 10 % 10), BitVec.ofNat 8 (b.toNat % 10)]

/-- `V[0]` to `V[x]` inclusive, ascending (R184). -/
def State.regsUpTo (s : State) (x : RegIdx) : List Byte :=
  (List.range (x.toNat + 1)).map fun k => s.getV (BitVec.ofNat 4 k)

/-- `I` after a dump or a load of V0 to VX: `(I + x + 1) mod 2^16` under increment, unchanged otherwise (R184, R185). -/
def State.stepIndex (s : State) (x : RegIdx) : State :=
  match s.params.indexQuirk with
  | .increment => s.setI (BitVec.ofNat 16 (s.i.toNat + x.toNat + 1))
  | .unchanged => s

/-- The value of DRAW_Y_MODULUS (R5). -/
def yModulus : DrawYModulus → Nat
  | .rows32 => 32
  | .rows64 => 64

/-- The column of the draw origin, `V[x] mod 64` (R202). -/
def State.originX (s : State) (x : RegIdx) : Nat := (s.getV x).toNat % 64

/-- The row of the draw origin, `V[y] mod DRAW_Y_MODULUS` (R202). -/
def State.originY (s : State) (y : RegIdx) : Nat := (s.getV y).toNat % yModulus s.params.drawYModulus

end Sys2Proof.Machine
end

