-- ==== Sys2Proof/Machine/Flags.lean ====
section
/-! DEFINITION. Every flag computation: a flag is computed from the operands as they were before the instruction and written to VF last (R22, R23). -/

namespace Sys2Proof.Machine

/-- A boolean written into a register: true is 1, false is 0 (R7). -/
def flagByte (b : Bool) : Byte := if b then 1 else 0

/-- Carry out of bit 7: the exact sum exceeds 255 (R156). -/
def carryOut (p q : Byte) : Bool := decide (255 < p.toNat + q.toNat)

/-- No borrow in `p - q` (R157, R159). -/
def noBorrow (p q : Byte) : Bool := decide (q.toNat ≤ p.toNat)

/-- The bit a right shift by one shifts out (R158). -/
def shiftedOutRight (src : Byte) : Bool := src.getLsbD 0

/-- The bit a left shift by one shifts out (R160). -/
def shiftedOutLeft (src : Byte) : Bool := src.getLsbD 7

/-- The primary result to VX, then the flag to VF (R23). -/
def State.setResultFlag (s : State) (x : RegIdx) (r : Byte) (flag : Bool) : State :=
  (s.setV x r).setV regVF (flagByte flag)

/-- The result of a logic instruction to VX, then VF cleared when VF_RESET_ON_LOGIC is true (R153 to R155). -/
def State.setLogic (s : State) (x : RegIdx) (r : Byte) : State :=
  if s.params.vfResetOnLogic then (s.setV x r).setV regVF 0 else s.setV x r

end Sys2Proof.Machine
end

