-- ==== Sys2Proof/Machine/Alu.lean ====
section
/-! DEFINITION. Register arithmetic and logic (R150 to R161), all unsigned at 8 bits and wrapping (R162). -/

namespace Sys2Proof.Machine

/-- 6XNN LD Vx, nn (R150). -/
def execLdImm (x : RegIdx) (nn : Byte) (s : State) : Result := .next (s.setV x nn)

/-- 7XNN ADD Vx, nn: no flag (R151). -/
def execAddImm (x : RegIdx) (nn : Byte) (s : State) : Result := .next (s.setV x (s.getV x + nn))

/-- 8XY0 LD Vx, Vy (R152). -/
def execLdReg (x y : RegIdx) (s : State) : Result := .next (s.setV x (s.getV y))

/-- 8XY1 OR Vx, Vy (R153). -/
def execOrReg (x y : RegIdx) (s : State) : Result := .next (s.setLogic x (s.getV x ||| s.getV y))

/-- 8XY2 AND Vx, Vy (R154). -/
def execAndReg (x y : RegIdx) (s : State) : Result := .next (s.setLogic x (s.getV x &&& s.getV y))

/-- 8XY3 XOR Vx, Vy (R155). -/
def execXorReg (x y : RegIdx) (s : State) : Result := .next (s.setLogic x (s.getV x ^^^ s.getV y))

/-- 8XY4 ADD Vx, Vy (R156). -/
def execAddReg (x y : RegIdx) (s : State) : Result :=
  .next (s.setResultFlag x (s.getV x + s.getV y) (carryOut (s.getV x) (s.getV y)))

/-- 8XY5 SUB Vx, Vy (R157). -/
def execSubReg (x y : RegIdx) (s : State) : Result :=
  .next (s.setResultFlag x (s.getV x - s.getV y) (noBorrow (s.getV x) (s.getV y)))

/-- 8XY6 SHR Vx, Vy (R158). -/
def execShr (x y : RegIdx) (s : State) : Result :=
  .next (s.setResultFlag x (s.shiftSource x y >>> 1) (shiftedOutRight (s.shiftSource x y)))

/-- 8XY7 SUBN Vx, Vy (R159). -/
def execSubnReg (x y : RegIdx) (s : State) : Result :=
  .next (s.setResultFlag x (s.getV y - s.getV x) (noBorrow (s.getV y) (s.getV x)))

/-- 8XYE SHL Vx, Vy (R160). -/
def execShl (x y : RegIdx) (s : State) : Result :=
  .next (s.setResultFlag x (s.shiftSource x y <<< 1) (shiftedOutLeft (s.shiftSource x y)))

/-- CXNN RND Vx, nn: a free byte under the mask (R161). -/
def execRnd (x : RegIdx) (nn : Byte) (s : State) : Result := .next (s.drawn.setV x (s.randomByte &&& nn))

end Sys2Proof.Machine
end

