-- ==== Sys2Proof/Machine/ControlFlow.lean ====
section
/-! DEFINITION. Control flow: return, jumps, call, and the skips on registers and immediates (R130 to R138). Each meaning starts from `PC = a + 2` (R101). -/

namespace Sys2Proof.Machine

/-- 00EE RET (R131). -/
def execRet (s : State) : Result :=
  if s.sp = 0 then .next (s.raise (.stackUnderflow s.fetchAddr (encode .ret)))
  else .next (s.drop.setPc s.top)

/-- 1NNN JP nnn (R132). -/
def execJp (nnn : Addr) (s : State) : Result := .next (s.setPc (zextAddr nnn))

/-- 2NNN CALL nnn (R133). -/
def execCall (nnn : Addr) (s : State) : Result :=
  if s.sp = s.params.stackDepth then .next (s.raise (.stackOverflow s.fetchAddr (encode (.call nnn))))
  else .next ((s.push s.pc).setPc (zextAddr nnn))

/-- BNNN JP V0, nnn (R134). -/
def execJpV0 (nnn : Addr) (s : State) : Result := .next (s.setPc (zextAddr nnn + zextByte (s.getV 0)))

/-- 3XNN SE Vx, nn (R135). -/
def execSeImm (x : RegIdx) (nn : Byte) (s : State) : Result := .next (s.skipIf (decide (s.getV x = nn)))

/-- 4XNN SNE Vx, nn (R136). -/
def execSneImm (x : RegIdx) (nn : Byte) (s : State) : Result := .next (s.skipIf (decide (s.getV x ≠ nn)))

/-- 5XY0 SE Vx, Vy (R137). -/
def execSeReg (x y : RegIdx) (s : State) : Result := .next (s.skipIf (decide (s.getV x = s.getV y)))

/-- 9XY0 SNE Vx, Vy (R138). -/
def execSneReg (x y : RegIdx) (s : State) : Result := .next (s.skipIf (decide (s.getV x ≠ s.getV y)))

end Sys2Proof.Machine
end

