-- ==== Sys2Proof/Machine/Display.lean ====
section
/-! DEFINITION. The display: clear and the XOR sprite draw (R200 to R203). -/

namespace Sys2Proof.Machine

/-- `D[y][x]`, false off the screen (R200). -/
def pixelOf (d : Display) (x y : Nat) : Bool := (d.getD y (Vector.replicate 64 false)).getD x false

/-- `D[y][x] <- not D[y][x]` for a pixel of the screen. -/
def flipPixel (d : Display) (x y : Nat) : Display :=
  d.setIfInBounds y ((d.getD y (Vector.replicate 64 false)).setIfInBounds x (!pixelOf d x y))

/-- `place(px, py)`: the pixel of the screen a sprite pixel lands on, none if it is clipped away (R203). -/
def place (e : SpriteEdge) (px py : Nat) : Option (Nat × Nat) :=
  match e with
  | .clip => if px < 64 ∧ py < 32 then some (px, py) else none
  | .wrap => some (px % 64, py % 32)

/-- One 1 bit of a sprite drawn at `(px, py)`: the display and whether a lit pixel was unset so far (R202). -/
def drawBit (e : SpriteEdge) (px py : Nat) (acc : Display × Bool) : Display × Bool :=
  match place e px py with
  | some (qx, qy) => (flipPixel acc.1 qx qy, acc.2 || pixelOf acc.1 qx qy)
  | none => acc

/-- One byte of a sprite drawn, bit 7 leftmost (R200, R202). -/
def drawByte (e : SpriteEdge) (x0 py : Nat) (b : Byte) (acc : Display × Bool) : Display × Bool :=
  (List.range 8).foldl (fun a c => if b.getLsbD (7 - c) then drawBit e (x0 + c) py a else a) acc

/-- The sprite's `n` bytes at I drawn from the origin down (R202). -/
def State.drawSprite (s : State) (x0 y0 n : Nat) : Display × Bool :=
  (List.range n).foldl (fun a r => drawByte s.params.spriteEdge x0 (y0 + r) (s.readByte (s.indexAddr + r)) a)
    (s.display, false)

/-- 00E0 CLS (R201). -/
def execCls (s : State) : Result := .next (s.setDisplay (Vector.replicate 32 (Vector.replicate 64 false)))

/-- The state after a draw: the display, then VF last (R202). -/
def State.drawnSprite (s : State) (x y : RegIdx) (n : Nibble) : State :=
  (s.setDisplay (s.drawSprite (s.originX x) (s.originY y) n.toNat).1).setV regVF
    (flagByte (s.drawSprite (s.originX x) (s.originY y) n.toNat).2)

/-- DXYN DRW Vx, Vy, n (R202): no memory is read, and so no range checked, when n is 0. -/
def execDrw (x y : RegIdx) (n : Nibble) (s : State) : Result :=
  if n.toNat = 0 then .next (s.drawnSprite x y n)
  else rangeChecked (.drw x y n) s.indexAddr (s.indexAddr + n.toNat - 1) s (s.drawnSprite x y n)

end Sys2Proof.Machine
end

