-- ==== Sys2Proof/Machine/IndexMemory.lean ====
section
/-! DEFINITION. The index register and the transfers between registers and memory (R180 to R185). -/

namespace Sys2Proof.Machine

/-- ANNN LD I, nnn (R180). -/
def execLdI (nnn : Addr) (s : State) : Result := .next (s.setI (zextAddr nnn))

/-- FX1E ADD I, Vx: wraps at 16 bits, no flag (R181). -/
def execAddI (x : RegIdx) (s : State) : Result := .next (s.setI (s.i + zextByte (s.getV x)))

/-- FX29 LD F, Vx (R182). -/
def execLdF (x : RegIdx) (s : State) : Result := .next (s.setI (s.glyphAddr (s.getV x)))

/-- FX33 LD B, Vx: three digits at I, I+1, I+2 (R183). -/
def execLdB (x : RegIdx) (s : State) : Result :=
  rangeChecked (.ldB x) s.indexAddr (s.indexAddr + 2) s (s.writeBytes s.indexAddr (bcdDigits (s.getV x)))

/-- FX55 LD [I], Vx: V0 to VX into memory from I (R184). -/
def execDump (x : RegIdx) (s : State) : Result :=
  rangeChecked (.dump x) s.indexAddr (s.indexAddr + x.toNat) s
    ((s.writeBytes s.indexAddr (s.regsUpTo x)).stepIndex x)

/-- FX65 LD Vx, [I]: V0 to VX from memory at I (R185). -/
def execLoad (x : RegIdx) (s : State) : Result :=
  rangeChecked (.load x) s.indexAddr (s.indexAddr + x.toNat) s
    ((s.setVs 0 (s.readBytes s.indexAddr (x.toNat + 1))).stepIndex x)

end Sys2Proof.Machine
end

