-- ==== Sys2Proof/Machine/TimersInput.lean ====
section
/-! DEFINITION. Key skips, timer moves and the key-wait (R220 to R226). -/

namespace Sys2Proof.Machine

/-- A key skip: the key named by VX is tested, and a value above 15 raises KeyIndexOutOfRange (R220). -/
def skipOnKey (i : Instr) (x : RegIdx) (wanted : Bool) (s : State) : Result :=
  match keyIndex (s.getV x) with
  | none => .next (s.raise (.keyIndexOutOfRange s.fetchAddr (encode i) (s.getV x)))
  | some k => .next (s.skipIf (s.keyDown k == wanted))

/-- EX9E SKP Vx (R221). -/
def execSkp (x : RegIdx) (s : State) : Result := skipOnKey (.skp x) x true s

/-- EXA1 SKNP Vx (R222). -/
def execSknp (x : RegIdx) (s : State) : Result := skipOnKey (.sknp x) x false s

/-- FX07 LD Vx, DT (R223). -/
def execLdVxDt (x : RegIdx) (s : State) : Result := .next (s.setV x s.dt)

/-- FX15 LD DT, Vx (R224). -/
def execLdDtVx (x : RegIdx) (s : State) : Result := .next (s.setDt (s.getV x))

/-- FX18 LD ST, Vx (R225). -/
def execLdStVx (x : RegIdx) (s : State) : Result := .next (s.setSt (s.getV x))

/-- FX0A LD Vx, K: a key-wait begins, with the keys as they are now (R226). -/
def execLdVxK (x : RegIdx) (s : State) : Result := .next (s.setMode (.waiting x s.keys))

end Sys2Proof.Machine
end

