-- ==== Sys2Proof/Machine/Scheduler.lean ====
section
/-! DEFINITION. The fetch-decode-execute cycle, the key-wait poll, the timer tick, the frames of the dual-clock scheduler and the host's key calls (R100 to R114), and one scheduled step. -/

namespace Sys2Proof.Machine

/-! ### The cycle (R100 to R106) -/

/-- `fetch_check(a)`: both bytes in memory, then alignment under MISALIGNED_PC = fault (R102). -/
def State.fetchError (s : State) : Option FatalError :=
  match rangeError s.pc.toNat (s.pc.toNat + 1) with
  | some a => some (.addressOutOfRange s.pc none a)
  | none =>
    if s.params.misalignedPc = .fault ∧ s.pc.toNat % 2 = 1 then some (.misalignedPC s.pc) else none

/-- The big-endian word at PC (R54, R101). -/
def State.fetchWord (s : State) : Word := wordOfBytes (s.readByte s.pc.toNat) (s.readByte (s.pc.toNat + 1))

/-- PC advanced past the fetched word, before execution (R101). -/
def State.advancePc (s : State) : State := s.setPc (s.pc + 2)

/-- A cycle in Running mode: check, fetch, advance, decode, execute (R101). -/
def runCycle (s : State) : Result :=
  match s.fetchError with
  | some e => .next (s.raise e)
  | none =>
    match decode s.fetchWord with
    | .error _ => .next (s.advancePc.raise (.unknownOpcode s.pc s.fetchWord))
    | .ok i => exec i s.advancePc

/-- All keys, ascending. -/
def allKeys : List RegIdx := (List.range 16).map fun k => BitVec.ofNat 4 k

/-- `T`: the keys that are down and were up in the snapshot, ascending (R105). -/
def State.newlyPressed (s : State) (snap : Keys) : List RegIdx :=
  allKeys.filter fun k => s.keyDown k && !(snap[k.toNat]'(k.isLt))

/-- KEY_CHOICE: some member of the set, which one is a free value (R5, R105, log entry 4). -/
def State.keyChoice (s : State) (t : List RegIdx) : RegIdx := t.getD (Config.keyPick s.draws % t.length) 0

/-- A cycle in Waiting mode (R105). -/
def State.waitCycle (s : State) (x : RegIdx) (snap : Keys) : State :=
  match s.newlyPressed snap with
  | [] => s.setMode (.waiting x s.keys)
  | k :: rest => (s.drawn.setV x ((s.keyChoice (k :: rest)).setWidth 8)).setMode .running

/-- One cycle, chosen by the mode (R100); a halted machine does nothing (R106). -/
def cycle (s : State) : Result :=
  match s.mode with
  | .running => runCycle s
  | .waiting x snap => .next (s.waitCycle x snap)
  | .halted _ => .next s

/-! ### Timers and frames (R107 to R110) -/

/-- A timer after one tick: one less while above 0 (R109). -/
def tickDown (b : Byte) : Byte := if b = 0 then 0 else b - 1

/-- `timer_tick()` (R109). -/
def State.timerTick (s : State) : State := { s with dt := tickDown s.dt, st := tickDown s.st }

/-- The mode is Halted (R31). -/
def State.isHalted (s : State) : Bool :=
  match s.mode with
  | .halted _ => true
  | _ => false

/-- The cycles the next frame runs, `(credit + CLOCK_HZ) div 60` (R107). -/
def State.frameCycles (s : State) : Nat := (s.credit + s.params.clockHz) / 60

/-- A frame opens: the credit, the cycle count, and the tick if it comes first (R107). -/
def State.openFrame (s : State) : State :=
  let t := { s with credit := (s.credit + s.params.clockHz) % 60, phase := .inFrame s.frameCycles }
  match s.params.tickOrder with
  | .tickThenCycles => t.timerTick
  | .cyclesThenTick => t

/-- A frame closes: the tick if it comes last, and the redraw signal (R107, R110). -/
def State.closeFrame (s : State) : State :=
  let t := { s with redraws := s.redraws + 1, phase := .between }
  match s.params.tickOrder with
  | .cyclesThenTick => t.timerTick
  | .tickThenCycles => t

/-! ### The host's key calls (R114) -/

/-- `K[k] <- pressed` (R114). -/
def applyKeyCall (k : Keys) (c : KeyCall) : Keys := k.set c.key.toNat c.pressed c.key.isLt

/-- The host's turn: any key calls, in their order, and the count of turns (R114, D42, log entry 5). -/
def State.hostTurn (s : State) : State :=
  { s with keys := (Config.hostCalls s.turns).foldl applyKeyCall s.keys, turns := s.turns + 1 }

/-! ### One scheduled step -/

/-- What the scheduler does next (R107): open a frame, run one of its cycles (R100), or close it. A halted machine does nothing (R106). -/
def State.proceed (s : State) : Result :=
  if s.isHalted then .next s
  else
    match s.phase with
    | .between => .next s.openFrame
    | .inFrame 0 => .next s.closeFrame
    | .inFrame (n + 1) => cycle (s.setPhase (.inFrame n))

/-- One step: the host's turn, then one cycle or one end of a frame, so that every moment between two cycles, or between a cycle and a tick, is a state (R114 to R116, log entry 6). -/
def scheduledStep (s : State) : Result :=
  if s.params.valid then s.hostTurn.proceed else .fault .invalidParams

/-! ### The frame as R107 writes it

`frame` is R107's pseudocode with the host's turns where the steps take them; the steps do the same work one at a time. -/

/-- An answer's next state passed through `f`. -/
def mapNext (f : State → State) : Result → Result
  | .next t => .next (f t)
  | .fault r => .fault r
  | .refused r => .refused r

/-- `repeat n times: if halted return; cycle()`, with the loop counter kept in `phase` and the host's turn before each cycle (R107, R114). -/
def repeatCycles : Nat → State → Result
  | 0, s => .next s
  | n + 1, s =>
    if s.isHalted then .next s
    else
      match cycle (s.hostTurn.setPhase (.inFrame n)) with
      | .next t => repeatCycles n t
      | .fault r => .fault r
      | .refused r => .refused r

/-- `frame()` (R107). -/
def frame (s : State) : Result :=
  if s.isHalted then .next s
  else
    mapNext (fun t => if t.isHalted then t else t.hostTurn.closeFrame)
      (repeatCycles s.frameCycles s.hostTurn.openFrame)

/-! ### Where a word lies so that the next step runs it -/

/-- A place in a frame from which the next step is a cycle: the same one where it is, a frame's last cycle otherwise. -/
def Phase.atCycle : Phase → Phase
  | .inFrame (n + 1) => .inFrame (n + 1)
  | _ => .inFrame 1

/-- The machine with the word at PC, in a frame with a cycle to run. Where nothing could be fetched as the state stands, the mode becomes Running and PC the entry point 0x200 (log entry 13). -/
def State.placeWord (s : State) (w : Word) : State :=
  let t := { s with mode := .running, phase := s.phase.atCycle, pc := if s.fetchError.isNone then s.pc else 0x200 }
  t.writeBytes t.pc.toNat (bytesOfWord w)

end Sys2Proof.Machine
end

