-- ==== Sys2Proof/Machine/Session.lean ====
section
/-! DEFINITION. The host's side of the interface: loading a program, which is the reset (R270, R271), key calls (R114) and what the host may read (R115). -/

namespace Sys2Proof.Machine

/-- The program base (R5, R57). -/
def programBase : Nat := 0x200

/-- The longest program, `4096 - 0x200` (R5, R271). -/
def maxProgramLength : Nat := 4096 - 0x200

/-- `load(bytes)` under the parameters `p`: a new session, or LoadError and no session (R270, R271). It is a session begun with both counters of free values at 0 (log entry 21). -/
def loadProgram (p : Params) (bytes : List Byte) : Except FatalError State :=
  if maxProgramLength < bytes.length then .error (.loadError bytes.length)
  else .ok ((State.initial p).writeBytes programBase bytes)

/-- What `load(bytes)` leaves of a session in being: the new session, or on LoadError the old one with nothing changed (R271, D35). The new session goes on with fresh free values, since no law ties its random bytes or keys to the old one's (D31, D42): the two counters, which are the model's own, run on (DESIGN CHOICE, log entry 21). -/
def State.reload (s : State) (bytes : List Byte) : State :=
  match loadProgram s.params bytes with
  | .ok t => { t with draws := s.draws, turns := s.turns }
  | .error _ => s

/-- `set_key(k, pressed)` (R114). -/
def State.setKey (s : State) (k : RegIdx) (pressed : Bool) : State :=
  { s with keys := applyKeyCall s.keys ⟨k, pressed⟩ }

/-- `get_pixel(x, y)`, that is `D[y][x]` (R115). -/
def State.getPixel (s : State) (x y : Nat) : Bool := pixelOf s.display x y

/-- `sound_active = (ST > 0)` (R28). -/
def State.soundActive (s : State) : Bool := decide (s.st ≠ 0)

/-- The error record the host reads after a halt (R115, R242). -/
def State.errorRecord (s : State) : Option FatalError :=
  match s.mode with
  | .halted e => some e
  | _ => none

/-- The code of an error (R240, R241). -/
def FatalError.code : FatalError → Nat
  | .loadError _ => 1
  | .unknownOpcode _ _ => 2
  | .stackOverflow _ _ => 3
  | .stackUnderflow _ _ => 4
  | .addressOutOfRange _ _ _ => 5
  | .keyIndexOutOfRange _ _ _ => 6
  | .misalignedPC _ => 7

/-- The record's `pc`, absent for LoadError (R242). -/
def FatalError.pc? : FatalError → Option Word
  | .loadError _ => none
  | .unknownOpcode pc _ => some pc
  | .stackOverflow pc _ => some pc
  | .stackUnderflow pc _ => some pc
  | .addressOutOfRange pc _ _ => some pc
  | .keyIndexOutOfRange pc _ _ => some pc
  | .misalignedPC pc => some pc

/-- The record's `opcode`, absent where the fetch itself fails (R8, R242). -/
def FatalError.opcode? : FatalError → Option Word
  | .loadError _ => none
  | .unknownOpcode _ w => some w
  | .stackOverflow _ w => some w
  | .stackUnderflow _ w => some w
  | .addressOutOfRange _ w _ => w
  | .keyIndexOutOfRange _ w _ => some w
  | .misalignedPC _ => none

end Sys2Proof.Machine
end

