-- ==== Sys2Proof/Machine/Step.lean ====
section
/-! DEFINITION. The step, and the state in which the next step runs a given instruction word. Both only call Machine/Scheduler.lean. -/

namespace Sys2Proof.Machine

/-- One step of the machine (R100, R107). -/
def step (s : State) : Host.Outcome State Fault Refusal := scheduledStep s

/-- The state with the instruction of a table row stored where the next step fetches it. -/
def State.withFetchWord (s : State) (nbits w : Nat) : State := s.placeWord (tableWord nbits w)

end Sys2Proof.Machine
end

