-- ==== Sys2Proof/Safety.lean ====
section
/-! DEFINITION. What claims are stated in terms of: the invariant every step keeps, and the frames that say what an instruction leaves unchanged. -/

namespace Sys2Proof.Machine

/-- The invariant of R36 with what the model's own data needs. PC and the stack entries are bounded as D10 and R134 bound them: BNNN reaches 0x10FE, a pushed return address at most 0x1000. -/
structure State.Inv (s : State) : Prop where
  /-- The parameters meet R5's constraints. -/
  params : s.params.valid = true
  /-- Memory is in canonical form, all of it below 0x1000 (R50). -/
  mem : Memory.wf (unlistedByte s.params) s.mem = true
  /-- PC is never past what BNNN reaches (R134). -/
  pc : s.pc.toNat ≤ 0x10FE
  /-- The stack has STACK_DEPTH entries (R26). -/
  stackLength : s.stack.length = s.params.stackDepth
  /-- SP never exceeds STACK_DEPTH (R26, R36). -/
  sp : s.sp ≤ s.params.stackDepth
  /-- Every stack entry is a return address a fetch can leave (R133). -/
  stackEntries : ∀ w ∈ s.stack, w.toNat ≤ 0x1000
  /-- The credit is the remainder of a division by 60 (R32). -/
  credit : s.credit < 60
  /-- No frame has more cycles left than a frame runs (R107). -/
  left : s.phase.left ≤ (59 + s.params.clockHz) / 60

/-- The machine has halted on a fatal error (R31, R243). A safe run never does. -/
def State.Safe (s : State) : Prop := s.isHalted = false

/-! ### Frames -/

/-- Every general register outside `ws` is unchanged. -/
def RegsKept (ws : List RegIdx) (s t : State) : Prop := ∀ r, r ∉ ws → t.getV r = s.getV r

/-- Every byte of memory reads as before. -/
def MemoryKept (s t : State) : Prop := ∀ a, t.readByte a = s.readByte a

/-- Every byte of memory outside the `n` bytes from `lo` reads as before. -/
def MemoryKeptOutside (lo n : Nat) (s t : State) : Prop :=
  ∀ a, ¬(lo ≤ a ∧ a < lo + n) → t.readByte a = s.readByte a

/-- I, DT and ST are unchanged. -/
def SpecialsKept (s t : State) : Prop := t.i = s.i ∧ t.dt = s.dt ∧ t.st = s.st

/-- The call stack and SP are unchanged. -/
def StackKept (s t : State) : Prop := t.stack = s.stack ∧ t.sp = s.sp

/-- The executor mode is unchanged. -/
def ModeKept (s t : State) : Prop := t.mode = s.mode

/-- The display is unchanged. -/
def DisplayKept (s t : State) : Prop := t.display = s.display

/-- What no instruction writes is unchanged: the keys (R30), the scheduler's credit and frame, the parameters, the redraw count, the count of host turns. -/
def OutsideKept (s t : State) : Prop :=
  t.keys = s.keys ∧ t.credit = s.credit ∧ t.params = s.params ∧ t.phase = s.phase ∧
    t.redraws = s.redraws ∧ t.turns = s.turns

/-- Everything but PC and the registers `ws` is unchanged, and PC too (R104): the frame of an instruction that only writes registers. -/
def RegisterFrame (ws : List RegIdx) (s t : State) : Prop :=
  t.pc = s.pc ∧ RegsKept ws s t ∧ MemoryKept s t ∧ SpecialsKept s t ∧ StackKept s t ∧ ModeKept s t ∧
    DisplayKept s t ∧ OutsideKept s t

/-- Everything but PC is unchanged: the frame of a jump or a skip. -/
def PcFrame (s t : State) : Prop :=
  RegsKept [] s t ∧ MemoryKept s t ∧ SpecialsKept s t ∧ StackKept s t ∧ ModeKept s t ∧ DisplayKept s t ∧
    OutsideKept s t

/-- Everything but PC and the call stack is unchanged: the frame of CALL and RET. -/
def PcStackFrame (s t : State) : Prop :=
  RegsKept [] s t ∧ MemoryKept s t ∧ SpecialsKept s t ∧ ModeKept s t ∧ DisplayKept s t ∧ OutsideKept s t

/-- Everything but I is unchanged: the frame of an instruction that sets or steps the index. -/
def IndexFrame (s t : State) : Prop :=
  t.pc = s.pc ∧ RegsKept [] s t ∧ MemoryKept s t ∧ t.dt = s.dt ∧ t.st = s.st ∧ StackKept s t ∧ ModeKept s t ∧
    DisplayKept s t ∧ OutsideKept s t

/-- Everything but I and the `n` bytes of memory from `lo` is unchanged: the frame of a store. -/
def StoreFrame (lo n : Nat) (s t : State) : Prop :=
  t.pc = s.pc ∧ RegsKept [] s t ∧ MemoryKeptOutside lo n s t ∧ t.dt = s.dt ∧ t.st = s.st ∧ StackKept s t ∧
    ModeKept s t ∧ DisplayKept s t ∧ OutsideKept s t

/-- The instruction raises the fatal error: the next state differs in its mode alone (R243). -/
def Halts (i : Instr) (s : State) (e : FatalError) : Prop := exec i s = .next { s with mode := .halted e }

/-! ### Words the claims use -/

/-- The general registers an instruction may write: the writers R21 and R22 list. -/
def writtenRegs : Instr → List RegIdx
  | .cls => []
  | .ret => []
  | .jp _ => []
  | .call _ => []
  | .seImm _ _ => []
  | .sneImm _ _ => []
  | .seReg _ _ => []
  | .ldImm x _ => [x]
  | .addImm x _ => [x]
  | .ldReg x _ => [x]
  | .orReg x _ => [x, 0xF]
  | .andReg x _ => [x, 0xF]
  | .xorReg x _ => [x, 0xF]
  | .addReg x _ => [x, 0xF]
  | .subReg x _ => [x, 0xF]
  | .shr x _ => [x, 0xF]
  | .subnReg x _ => [x, 0xF]
  | .shl x _ => [x, 0xF]
  | .sneReg _ _ => []
  | .ldI _ => []
  | .jpV0 _ => []
  | .rnd x _ => [x]
  | .drw _ _ _ => [0xF]
  | .skp _ => []
  | .sknp _ => []
  | .ldVxDt x => [x]
  | .ldVxK _ => []
  | .ldDtVx _ => []
  | .ldStVx _ => []
  | .addI _ => []
  | .ldF _ => []
  | .ldB _ => []
  | .dump _ => []
  | .load x => (List.range (x.toNat + 1)).map fun k => BitVec.ofNat 4 k

/-- A 1 bit of the sprite at I, drawn with its origin at `(x0, y0)`, lands on pixel `(px, py)`: bit `7 - c` of byte `r` goes to column `x0 + c`, row `y0 + r`, off the screen dropped under clip, taken round under wrap (R200, R202, R203). -/
def SpriteHits (s : State) (x0 y0 n px py : Nat) : Prop :=
  ∃ r c, r < n ∧ c < 8 ∧ (s.readByte (s.i.toNat + r)).toNat.testBit (7 - c) = true ∧
    match s.params.spriteEdge with
    | .clip => px = x0 + c ∧ py = y0 + r
    | .wrap => px = (x0 + c) % 64 ∧ py = (y0 + r) % 32

/-- `f` frames one after another (R107). -/
def runFrames : Nat → State → Result
  | 0, s => .next s
  | f + 1, s =>
    match frame s with
    | .next t => runFrames f t
    | .fault r => .fault r
    | .refused r => .refused r

/-- How often `repeatCycles n s` calls `cycle`: its own recursion, counting. -/
def cyclesRun : Nat → State → Nat
  | 0, _ => 0
  | n + 1, s =>
    if s.isHalted then 0
    else
      1 + match cycle (s.hostTurn.setPhase (.inFrame n)) with
        | .next t => cyclesRun n t
        | _ => 0

/-- How often `f` frames from `s` call `cycle` (R107). -/
def cyclesInFrames : Nat → State → Nat
  | 0, _ => 0
  | f + 1, s =>
    (if s.isHalted then 0 else cyclesRun s.frameCycles s.hostTurn.openFrame) +
      match frame s with
      | .next t => cyclesInFrames f t
      | _ => 0

/-- The state with DRAW_SYNC set otherwise (R111). -/
def State.withDrawSync (s : State) (b : Bool) : State := { s with params := { s.params with drawSync := b } }

end Sys2Proof.Machine
end

