-- ==== Sys2Proof/Certificates/Slice0/Obligations.lean ====
section
/-! DEFINITION. The statements for the provers, each formalising what the spec says of the machine. A statement that rests on a decision of the spec (D1 to D42 of 92_eei_decisions.md) or on a passage it marks as general knowledge has basis derived in OBLIGATIONS.json, and its docstring names the decision. A stated statement repeats its rule's encoding line, which 93_implementation_defined.md section 2 marks as general knowledge of the spec. -/

open Sys2Proof Sys2Proof.Machine

/-! ### Encoding (30_encoding.md) -/

/-- Words of the decode table of 95_test_vectors.md section 2.1, which follows the opcode map the spec adopts from general knowledge (D1), one or more for each family, and words it refuses (D2, D3). -/
def Obligations.SpecWordsDecode : Prop :=
  decode 0x00E0 = .ok .cls ∧ decode 0x00EE = .ok .ret ∧ decode 0x1ABC = .ok (.jp 0xABC) ∧
  decode 0x5120 = .ok (.seReg 1 2) ∧ decode 0x9120 = .ok (.sneReg 1 2) ∧ decode 0x8ABE = .ok (.shl 0xA 0xB) ∧
  decode 0xB123 = .ok (.jpV0 0x123) ∧ decode 0xD12F = .ok (.drw 1 2 15) ∧ decode 0xE19E = .ok (.skp 1) ∧
  decode 0xE1A1 = .ok (.sknp 1) ∧ decode 0xF107 = .ok (.ldVxDt 1) ∧ decode 0xFF65 = .ok (.load 15) ∧
  decode 0x0000 = .error (.machineSpace 0x0000) ∧ decode 0x5121 = .error (.skipNibble 0x5121) ∧
  decode 0x8ABF = .error (.aluNibble 0x8ABF) ∧ decode 0xE19F = .error (.keyByte 0xE19F) ∧
  decode 0xF130 = .error (.miscByte 0xF130)

/-- Decoding an encoded instruction gives it back, every operand at every value (map D1). -/
def Obligations.DecodeOfEncode : Prop := ∀ i : Instr, decode (encode i) = .ok i

/-- R75 over the map of R74 (D1): a word that matches a row decodes to an instruction of a row that admits it, whose fields are the word's since encoding gives the word back; every other word is unknown. -/
def Obligations.DecodeTotalOnWords : Prop :=
  ∀ w : Word,
    if wellFormedWord w = true then ∃ i, decode w = .ok i ∧ i.row.admits w = true ∧ encode i = w
    else ∃ e, decode w = .error e

/-- R74: "No two rows match the same word" (map D1). -/
def Obligations.OpcodeRowsDisjoint : Prop := ∀ w : Word, opcodeMap.countP (·.admits w) ≤ 1

/-- R76's list of the illegal words (D2, D3), clause by clause. -/
def Obligations.IllegalWordsAsListed : Prop :=
  ∀ w : Word, wellFormedWord w = false ↔
    (fieldC w = 0x0 ∧ w ≠ 0x00E0 ∧ w ≠ 0x00EE) ∨
    ((fieldC w = 0x5 ∨ fieldC w = 0x9) ∧ fieldN w ≠ 0) ∨
    (fieldC w = 0x8 ∧ fieldN w ∈ [0x8, 0x9, 0xA, 0xB, 0xC, 0xD, 0xF]) ∨
    (fieldC w = 0xE ∧ fieldNN w ∉ [0x9E, 0xA1]) ∨
    (fieldC w = 0xF ∧ fieldNN w ∉ [0x07, 0x0A, 0x15, 0x18, 0x1E, 0x29, 0x33, 0x55, 0x65])

/-! ### Control flow (41_control_flow.md) -/

/-- R131, with the halt as R242 and R243 give it (D23, log entries 10 and 11). With no entry in use RET halts on StackUnderflow. Otherwise SP goes down by one and PC becomes the top entry, which stays in its place. -/
def Obligations.RetPopsOrUnderflows : Prop :=
  encode .ret = 0x00EE ∧
  (∀ s : State, s.sp = 0 → Halts .ret s (.stackUnderflow (s.pc - 2) 0x00EE)) ∧
  (∀ s : State, s.Inv → 0 < s.sp → ∃ t, exec .ret s = .next t ∧ t.sp = s.sp - 1 ∧
    s.stack[s.sp - 1]? = some t.pc ∧ t.stack = s.stack ∧ PcStackFrame s t)

/-- R133, with the halt as R242 and R243 give it (D23, log entries 10 and 11) and the stack outside memory (D33). With STACK_DEPTH entries in use CALL halts on StackOverflow. Otherwise the advanced PC goes to S[SP] and no other entry changes, SP goes up by one, PC becomes nnn. -/
def Obligations.CallPushesOrOverflows : Prop :=
  ∀ nnn : Addr, encode (.call nnn) = 0x2000 ||| nnn.setWidth 16 ∧
  (∀ s : State, s.sp = s.params.stackDepth →
    Halts (.call nnn) s (.stackOverflow (s.pc - 2) (0x2000 ||| nnn.setWidth 16))) ∧
  (∀ s : State, s.Inv → s.sp ≠ s.params.stackDepth → ∃ t, exec (.call nnn) s = .next t ∧
    t.stack[s.sp]? = some s.pc ∧ (∀ k, k ≠ s.sp → t.stack[k]? = s.stack[k]?) ∧ t.sp = s.sp + 1 ∧
    t.pc.toNat = nnn.toNat ∧ PcStackFrame s t)

/-- A call followed at once by a return restores the PC after the call and the stack depth (95_test_vectors.md E7, quoting the source). -/
def Obligations.CallThenRetReturns : Prop :=
  ∀ (nnn : Addr) (s : State), s.Inv → s.sp < s.params.stackDepth →
    ∃ t u, exec (.call nnn) s = .next t ∧ exec .ret t = .next u ∧ u.pc = s.pc ∧ u.sp = s.sp ∧ PcStackFrame s u

/-- JP and JP V0: PC becomes nnn, and nnn plus V0 with no wrap and no mask (D10, D17; encodings general knowledge). -/
def Obligations.JumpsSetPc : Prop :=
  ∀ (nnn : Addr) (s : State),
    (∃ t, exec (.jp nnn) s = .next t ∧ t.pc.toNat = nnn.toNat ∧ PcFrame s t) ∧
    (∃ t, exec (.jpV0 nnn) s = .next t ∧ t.pc.toNat = nnn.toNat + (s.getV 0).toNat ∧ PcFrame s t)

/-- R130 and R135 to R138: a skip adds two to the advanced PC when its condition holds, and writes nothing else. That there is no wrap is the 16-bit PC of D10 under the invariant (log entry 14). -/
def Obligations.SkipsAddTwoToPc : Prop :=
  ∀ (x y : RegIdx) (nn : Byte),
    encode (.seImm x nn) = 0x3000 ||| (x.setWidth 16 <<< 8) ||| nn.setWidth 16 ∧
    encode (.sneImm x nn) = 0x4000 ||| (x.setWidth 16 <<< 8) ||| nn.setWidth 16 ∧
    encode (.seReg x y) = 0x5000 ||| (x.setWidth 16 <<< 8) ||| (y.setWidth 16 <<< 4) ∧
    encode (.sneReg x y) = 0x9000 ||| (x.setWidth 16 <<< 8) ||| (y.setWidth 16 <<< 4) ∧
    ∀ s : State, s.Inv →
      (∃ t, exec (.seImm x nn) s = .next t ∧ PcFrame s t ∧
        t.pc.toNat = if s.getV x = nn then s.pc.toNat + 2 else s.pc.toNat) ∧
      (∃ t, exec (.sneImm x nn) s = .next t ∧ PcFrame s t ∧
        t.pc.toNat = if s.getV x = nn then s.pc.toNat else s.pc.toNat + 2) ∧
      (∃ t, exec (.seReg x y) s = .next t ∧ PcFrame s t ∧
        t.pc.toNat = if s.getV x = s.getV y then s.pc.toNat + 2 else s.pc.toNat) ∧
      (∃ t, exec (.sneReg x y) s = .next t ∧ PcFrame s t ∧
        t.pc.toNat = if s.getV x = s.getV y then s.pc.toNat else s.pc.toNat + 2)

/-! ### Register arithmetic and logic (42_alu.md) -/

/-- R150: V[x] becomes nn, VF too when x is 15. -/
def Obligations.LoadImmediateWritesVx : Prop :=
  ∀ (x : RegIdx) (nn : Byte), encode (.ldImm x nn) = 0x6000 ||| (x.setWidth 16 <<< 8) ||| nn.setWidth 16 ∧
    ∀ s : State, ∃ t, exec (.ldImm x nn) s = .next t ∧ t.getV x = nn ∧ RegisterFrame [x] s t

/-- 7XNN adds modulo 256 and writes no flag (D37). -/
def Obligations.AddImmediateWithoutFlag : Prop :=
  ∀ (x : RegIdx) (nn : Byte) (s : State), ∃ t, exec (.addImm x nn) s = .next t ∧
    (t.getV x).toNat = ((s.getV x).toNat + nn.toNat) % 256 ∧ RegisterFrame [x] s t

/-- 8XY0 copies V[y] to V[x] (general knowledge, D1). -/
def Obligations.CopyRegister : Prop :=
  ∀ (x y : RegIdx) (s : State), ∃ t, exec (.ldReg x y) s = .next t ∧ t.getV x = s.getV y ∧ RegisterFrame [x] s t

/-- 8XY1, 8XY2, 8XY3: bitwise OR, AND, XOR bit by bit; VF becomes 0 afterwards only under VF_RESET_ON_LOGIC (D16), and is otherwise no flag. -/
def Obligations.LogicAndItsFlagReset : Prop :=
  ∀ (x y : RegIdx) (s : State) (i : Instr) (f : Bool → Bool → Bool),
    (i = .orReg x y ∧ f = (fun a b => a || b)) ∨ (i = .andReg x y ∧ f = (fun a b => a && b)) ∨
      (i = .xorReg x y ∧ f = Bool.xor) →
    ∃ t, exec i s = .next t ∧ RegisterFrame [x, 0xF] s t ∧
      (s.params.vfResetOnLogic = true → t.getV 0xF = 0) ∧
      (s.params.vfResetOnLogic = false → x ≠ 0xF → t.getV 0xF = s.getV 0xF) ∧
      (x ≠ 0xF ∨ s.params.vfResetOnLogic = false →
        ∀ k, k < 8 → (t.getV x).getLsbD k = f ((s.getV x).getLsbD k) ((s.getV y).getLsbD k))

/-- R156: the sum modulo 256 to V[x], then VF is 1 exactly when the exact sum exceeds 255; when x is 15 VF ends as the carry. That both come from the old operands and VF is written last is D32 (R23). -/
def Obligations.AddSetsCarry : Prop :=
  ∀ x y : RegIdx, encode (.addReg x y) = 0x8004 ||| (x.setWidth 16 <<< 8) ||| (y.setWidth 16 <<< 4) ∧
    ∀ s : State, ∃ t, exec (.addReg x y) s = .next t ∧ RegisterFrame [x, 0xF] s t ∧
      t.getV 0xF = (if (s.getV x).toNat + (s.getV y).toNat > 255 then 1 else 0) ∧
      (x ≠ 0xF → (t.getV x).toNat = ((s.getV x).toNat + (s.getV y).toNat) % 256)

/-- R157: the difference modulo 256 to V[x], then VF is 1 exactly when there is no borrow. That both come from the old operands and VF is written last is D32 (R23). -/
def Obligations.SubSetsNoBorrow : Prop :=
  ∀ x y : RegIdx, encode (.subReg x y) = 0x8005 ||| (x.setWidth 16 <<< 8) ||| (y.setWidth 16 <<< 4) ∧
    ∀ s : State, ∃ t, exec (.subReg x y) s = .next t ∧ RegisterFrame [x, 0xF] s t ∧
      t.getV 0xF = (if (s.getV x).toNat ≥ (s.getV y).toNat then 1 else 0) ∧
      (x ≠ 0xF → (t.getV x).toNat = ((s.getV x).toNat + 256 - (s.getV y).toNat) % 256)

/-- 8XY7: the difference the other way round (general knowledge, D1). -/
def Obligations.ReverseSubSetsNoBorrow : Prop :=
  ∀ (x y : RegIdx) (s : State), ∃ t, exec (.subnReg x y) s = .next t ∧ RegisterFrame [x, 0xF] s t ∧
    t.getV 0xF = (if (s.getV y).toNat ≥ (s.getV x).toNat then 1 else 0) ∧
    (x ≠ 0xF → (t.getV x).toNat = ((s.getV y).toNat + 256 - (s.getV x).toNat) % 256)

/-- 8XY6 and 8XYE under both values of SHIFT_QUIRK (D12; direction and flag bit general knowledge). -/
def Obligations.ShiftsTakeTheQuirksSource : Prop :=
  ∀ (x y : RegIdx) (s : State) (src : Byte),
    src = (if s.params.shiftQuirk = .legacyVy then s.getV y else s.getV x) →
    (∃ t, exec (.shr x y) s = .next t ∧ RegisterFrame [x, 0xF] s t ∧ (t.getV 0xF).toNat = src.toNat % 2 ∧
      (x ≠ 0xF → (t.getV x).toNat = src.toNat / 2)) ∧
    (∃ t, exec (.shl x y) s = .next t ∧ RegisterFrame [x, 0xF] s t ∧ (t.getV 0xF).toNat = src.toNat / 128 ∧
      (x ≠ 0xF → (t.getV x).toNat = 2 * src.toNat % 256))

/-- CXNN: a free byte under the mask nn, and the next draw is another one (D31). True whatever the free byte is. -/
def Obligations.RandomUnderMask : Prop :=
  ∀ (x : RegIdx) (nn : Byte) (s : State), ∃ t, exec (.rnd x nn) s = .next t ∧ RegisterFrame [x] s t ∧
    t.getV x = (Config.randomByte s.draws &&& nn) ∧ t.draws = s.draws + 1 ∧
    (∀ k, nn.getLsbD k = false → (t.getV x).getLsbD k = false)

/-! ### Index and memory (43_index_memory.md) -/

/-- R180: I becomes nnn, its bits 15 to 12 clear. -/
def Obligations.LoadIndex : Prop :=
  ∀ nnn : Addr, encode (.ldI nnn) = 0xA000 ||| nnn.setWidth 16 ∧
    ∀ s : State, ∃ t, exec (.ldI nnn) s = .next t ∧ t.i.toNat = nnn.toNat ∧ IndexFrame s t

/-- FX1E: I plus V[x] modulo 2^16, no flag (D11). -/
def Obligations.AddToIndexWraps : Prop :=
  ∀ (x : RegIdx) (s : State), ∃ t, exec (.addI x) s = .next t ∧
    t.i.toNat = (s.i.toNat + (s.getV x).toNat) % 65536 ∧ IndexFrame s t

/-- FX29: the glyph of V[x]'s low nibble, 5 bytes a glyph from FONT_BASE (D6). -/
def Obligations.GlyphAddress : Prop :=
  ∀ (x : RegIdx) (s : State), s.params.valid = true → ∃ t, exec (.ldF x) s = .next t ∧
    t.i.toNat = s.params.fontBase + 5 * ((s.getV x).toNat % 16) ∧ IndexFrame s t

/-- FX33: hundreds, tens, units at I, I+1, I+2 (digit order general knowledge), I unchanged. -/
def Obligations.StoreBcd : Prop :=
  ∀ (x : RegIdx) (s : State), s.Inv → s.i.toNat + 2 ≤ 0xFFF → ∃ t, exec (.ldB x) s = .next t ∧
    (t.readByte s.i.toNat).toNat = (s.getV x).toNat / 100 ∧
    (t.readByte (s.i.toNat + 1)).toNat = (s.getV x).toNat / 10 % 10 ∧
    (t.readByte (s.i.toNat + 2)).toNat = (s.getV x).toNat % 10 ∧
    t.i = s.i ∧ StoreFrame s.i.toNat 3 s t

/-- FX55: V0 to V[x] to memory from I, and I by INDEX_INCREMENT_QUIRK (D13). -/
def Obligations.DumpRegisters : Prop :=
  ∀ (x : RegIdx) (s : State), s.Inv → s.i.toNat + x.toNat ≤ 0xFFF → ∃ t, exec (.dump x) s = .next t ∧
    (∀ r : RegIdx, r.toNat ≤ x.toNat → t.readByte (s.i.toNat + r.toNat) = s.getV r) ∧
    t.i.toNat = (if s.params.indexQuirk = .increment then s.i.toNat + x.toNat + 1 else s.i.toNat) ∧
    StoreFrame s.i.toNat (x.toNat + 1) s t

/-- FX65: V0 to V[x] from memory at I, the others kept, and I by INDEX_INCREMENT_QUIRK (D13). -/
def Obligations.LoadRegisters : Prop :=
  ∀ (x : RegIdx) (s : State), s.i.toNat + x.toNat ≤ 0xFFF → ∃ t, exec (.load x) s = .next t ∧
    (∀ r : RegIdx, t.getV r = if r.toNat ≤ x.toNat then s.readByte (s.i.toNat + r.toNat) else s.getV r) ∧
    t.i.toNat = (if s.params.indexQuirk = .increment then s.i.toNat + x.toNat + 1 else s.i.toNat) ∧
    t.pc = s.pc ∧ MemoryKept s t ∧ t.dt = s.dt ∧ t.st = s.st ∧ StackKept s t ∧ ModeKept s t ∧ DisplayKept s t ∧
    OutsideKept s t

/-- An access above 0xFFF by FX33, FX55, FX65 or DXYN halts before anything is written, with the lowest offending address (D7). -/
def Obligations.OutOfRangeAccessHalts : Prop :=
  ∀ (x y : RegIdx) (n : Nibble) (s : State),
    (0xFFF < s.i.toNat + 2 →
      Halts (.ldB x) s (.addressOutOfRange (s.pc - 2) (some (encode (.ldB x))) (max s.i.toNat 0x1000))) ∧
    (0xFFF < s.i.toNat + x.toNat →
      Halts (.dump x) s (.addressOutOfRange (s.pc - 2) (some (encode (.dump x))) (max s.i.toNat 0x1000)) ∧
      Halts (.load x) s (.addressOutOfRange (s.pc - 2) (some (encode (.load x))) (max s.i.toNat 0x1000))) ∧
    (0 < n.toNat → 0xFFF < s.i.toNat + n.toNat - 1 →
      Halts (.drw x y n) s (.addressOutOfRange (s.pc - 2) (some (encode (.drw x y n))) (max s.i.toNat 0x1000)))

/-! ### Display (44_display.md) -/

/-- R201: every pixel becomes false, nothing else changes. -/
def Obligations.ClearDisplay : Prop :=
  encode .cls = 0x00E0 ∧
  ∀ s : State, ∃ t, exec .cls s = .next t ∧ (∀ x y, x < 64 → y < 32 → t.getPixel x y = false) ∧ t.pc = s.pc ∧
    RegsKept [] s t ∧ MemoryKept s t ∧ SpecialsKept s t ∧ StackKept s t ∧ ModeKept s t ∧ OutsideKept s t

/-- DXYN draws by XOR and reports the collision, for both edge modes (D14, D36), both row moduli (D15) and no rows (D30); bit and row order are general knowledge. A pixel is flipped exactly when a sprite bit lands on it, and VF is 1 exactly when a lit pixel was flipped. -/
def Obligations.DrawFlipsAndReportsCollision : Prop :=
  ∀ (x y : RegIdx) (n : Nibble) (s : State) (x0 y0 : Nat),
    x0 = (s.getV x).toNat % 64 → y0 = (s.getV y).toNat % (if s.params.drawYModulus = .rows32 then 32 else 64) →
    n.toNat = 0 ∨ s.i.toNat + n.toNat - 1 ≤ 0xFFF →
    ∃ t, exec (.drw x y n) s = .next t ∧
      (∀ px py, px < 64 → py < 32 →
        (SpriteHits s x0 y0 n.toNat px py → t.getPixel px py = !s.getPixel px py) ∧
        (¬SpriteHits s x0 y0 n.toNat px py → t.getPixel px py = s.getPixel px py)) ∧
      ((∃ px py, px < 64 ∧ py < 32 ∧ SpriteHits s x0 y0 n.toNat px py ∧ s.getPixel px py = true) →
        t.getV 0xF = 1) ∧
      ((¬∃ px py, px < 64 ∧ py < 32 ∧ SpriteHits s x0 y0 n.toNat px py ∧ s.getPixel px py = true) →
        t.getV 0xF = 0) ∧
      t.pc = s.pc ∧ RegsKept [0xF] s t ∧ MemoryKept s t ∧ SpecialsKept s t ∧ StackKept s t ∧ ModeKept s t ∧
      OutsideKept s t

/-! ### Keys and timers (45_timers_input.md) -/

/-- EX9E and EXA1 test the key V[x] names and skip, and halt on KeyIndexOutOfRange when V[x] is above 15 (D18). -/
def Obligations.KeySkipsPollTheKey : Prop :=
  ∀ (x : RegIdx) (s : State),
    (15 < (s.getV x).toNat →
      Halts (.skp x) s (.keyIndexOutOfRange (s.pc - 2) (encode (.skp x)) (s.getV x)) ∧
      Halts (.sknp x) s (.keyIndexOutOfRange (s.pc - 2) (encode (.sknp x)) (s.getV x))) ∧
    (s.Inv → ∀ k : RegIdx, (s.getV x).toNat = k.toNat →
      (∃ t, exec (.skp x) s = .next t ∧ PcFrame s t ∧
        t.pc.toNat = if s.keyDown k = true then s.pc.toNat + 2 else s.pc.toNat) ∧
      (∃ t, exec (.sknp x) s = .next t ∧ PcFrame s t ∧
        t.pc.toNat = if s.keyDown k = true then s.pc.toNat else s.pc.toNat + 2))

/-- R223, R224, R225: V[x] from DT, DT from V[x], ST from V[x], and sound_active at once. -/
def Obligations.TimerMoves : Prop :=
  ∀ x : RegIdx,
    encode (.ldVxDt x) = 0xF007 ||| (x.setWidth 16 <<< 8) ∧
    encode (.ldDtVx x) = 0xF015 ||| (x.setWidth 16 <<< 8) ∧
    encode (.ldStVx x) = 0xF018 ||| (x.setWidth 16 <<< 8) ∧
    ∀ s : State,
      (∃ t, exec (.ldVxDt x) s = .next t ∧ t.getV x = s.dt ∧ RegisterFrame [x] s t) ∧
      (∃ t, exec (.ldDtVx x) s = .next t ∧ t.dt = s.getV x ∧ t.i = s.i ∧ t.st = s.st ∧ t.pc = s.pc ∧
        RegsKept [] s t ∧ MemoryKept s t ∧ StackKept s t ∧ ModeKept s t ∧ DisplayKept s t ∧ OutsideKept s t) ∧
      (∃ t, exec (.ldStVx x) s = .next t ∧ t.st = s.getV x ∧ (t.soundActive = true ↔ 0 < (s.getV x).toNat) ∧
        t.i = s.i ∧ t.dt = s.dt ∧ t.pc = s.pc ∧
        RegsKept [] s t ∧ MemoryKept s t ∧ StackKept s t ∧ ModeKept s t ∧ DisplayKept s t ∧ OutsideKept s t)

/-- FX0A enters Waiting with the keys as they are now and writes nothing else (D20). -/
def Obligations.KeyWaitBegins : Prop :=
  ∀ (x : RegIdx) (s : State), ∃ t, exec (.ldVxK x) s = .next t ∧ t.mode = .waiting x s.keys ∧ t.pc = s.pc ∧
    RegsKept [] s t ∧ MemoryKept s t ∧ SpecialsKept s t ∧ StackKept s t ∧ DisplayKept s t ∧ OutsideKept s t

/-- R105 (D19, D20): a waiting cycle fetches nothing. With no key newly down it refreshes the snapshot. Otherwise it writes one of the newly pressed keys, any of them, to V[x] and goes back to Running. -/
def Obligations.WaitingCyclePolls : Prop :=
  ∀ (s : State) (x : RegIdx) (snap : Keys), s.mode = .waiting x snap →
    ((∀ k : RegIdx, s.keyDown k = true → snap[k.toNat]'(k.isLt) = true) →
      cycle s = .next { s with mode := .waiting x s.keys }) ∧
    ((∃ k : RegIdx, s.keyDown k = true ∧ snap[k.toNat]'(k.isLt) = false) →
      ∃ t k, cycle s = .next t ∧ s.keyDown k = true ∧ snap[k.toNat]'(k.isLt) = false ∧
        (t.getV x).toNat = k.toNat ∧ t.mode = .running ∧ t.pc = s.pc ∧ RegsKept [x] s t ∧ MemoryKept s t ∧
        SpecialsKept s t ∧ StackKept s t ∧ DisplayKept s t ∧ OutsideKept s t)

/-! ### The cycle and the step (40_cycle_and_scheduler.md, 60_exceptions.md) -/

/-- R101 at the step: where a frame has a cycle to run and the big-endian word at PC decodes to i, the step is exec of i with PC advanced by 2, one cycle less to run, after the host's turn (log entries 5 and 6). -/
def Obligations.StepRunsDecodedInstruction : Prop :=
  ∀ (s : State) (i : Instr) (n : Nat), s.params.valid = true → s.mode = .running → s.phase = .inFrame (n + 1) →
    s.pc.toNat ≤ 0xFFE → (s.params.misalignedPc = .allow ∨ s.pc.toNat % 2 = 0) →
    decode (s.readByte s.pc.toNat ++ s.readByte (s.pc.toNat + 1)) = .ok i →
    step s = exec i { s.hostTurn with phase := .inFrame n, pc := s.pc + 2 }

/-- The host's turn and the opening and closing of a frame leave the machine's own registers, memory, display, stack, mode, parameters and free draws alone (log entry 6). -/
def Obligations.SchedulerKeepsTheCore : Prop :=
  ∀ s t : State, t ∈ [s.hostTurn, s.openFrame, s.closeFrame] →
    RegsKept [] s t ∧ MemoryKept s t ∧ t.i = s.i ∧ t.pc = s.pc ∧ StackKept s t ∧ DisplayKept s t ∧ ModeKept s t ∧
      t.params = s.params ∧ t.draws = s.draws

/-- R102, R76, R245 (D7, D8, D9, D25): the fetch's errors in their order, and what each leaves: PC unmoved by the fetch check, advanced by 2 for an unknown word. -/
def Obligations.FetchErrorsInOrder : Prop :=
  ∀ s : State, s.mode = .running →
    (0xFFE < s.pc.toNat →
      cycle s = .next { s with mode := .halted (.addressOutOfRange s.pc none (max s.pc.toNat 0x1000)) }) ∧
    (s.pc.toNat ≤ 0xFFE → s.params.misalignedPc = .fault → s.pc.toNat % 2 = 1 →
      cycle s = .next { s with mode := .halted (.misalignedPC s.pc) }) ∧
    (s.pc.toNat ≤ 0xFFE → (s.params.misalignedPc = .allow ∨ s.pc.toNat % 2 = 0) →
      ∀ w : Word, w = s.readByte s.pc.toNat ++ s.readByte (s.pc.toNat + 1) → wellFormedWord w = false →
        cycle s = .next { s with pc := s.pc + 2, mode := .halted (.unknownOpcode s.pc w) })

/-- R106 (D23): a halted machine changes nothing, in a cycle and in a whole frame. In a step only the host's turn is left, which sets keys alone: that R114's host calls go on after a halt is log entry 17. -/
def Obligations.HaltedChangesNothing : Prop :=
  ∀ (s : State) (e : FatalError), s.mode = .halted e →
    cycle s = .next s ∧ frame s = .next s ∧
    (s.params.valid = true →
      step s = .next { s with keys := s.hostTurn.keys, turns := s.turns + 1 })

/-- R242, R243 (D23): an instruction that halts the machine has changed the mode alone, and the record carries the fetch address and the instruction's own word. -/
def Obligations.InstructionErrorsArePrecise : Prop :=
  ∀ (i : Instr) (s t : State) (e : FatalError), s.isHalted = false → exec i s = .next t → t.mode = .halted e →
    t = { s with mode := .halted e } ∧ e.pc? = some (s.pc - 2) ∧ e.opcode? = some (encode i)

/-- R243 item 4 (D23): the step that halts has no timer tick and no redraw signal, and no later step has one or leaves the halt. -/
def Obligations.FatalErrorEndsTheFrame : Prop :=
  ∀ s t : State, s.isHalted = false → step s = .next t → t.isHalted = true →
    t.dt = s.dt ∧ t.st = s.st ∧ t.redraws = s.redraws ∧
    ∀ k u, Host.Core.run core k t = .next u → u.dt = t.dt ∧ u.st = t.st ∧ u.redraws = t.redraws ∧ u.mode = t.mode

/-- R109: each timer goes down by one while above 0, stays at 0, and nothing else changes. -/
def Obligations.TimerTickCountsDown : Prop :=
  ∀ s : State,
    s.timerTick = { s with dt := s.timerTick.dt, st := s.timerTick.st } ∧
    s.timerTick.dt.toNat = (if s.dt.toNat > 0 then s.dt.toNat - 1 else 0) ∧
    s.timerTick.st.toNat = (if s.st.toNat > 0 then s.st.toNat - 1 else 0)

/-- R279: the timers after k ticks; a value v reaches 0 at the v-th tick and stays there. -/
def Obligations.TimersReachZeroOnTime : Prop :=
  ∀ (k : Nat) (s : State),
    (State.timerTick^[k] s).dt.toNat = s.dt.toNat - k ∧ (State.timerTick^[k] s).st.toNat = s.st.toNat - k

/-- R107 (D21, D22, D34): frame(), with the host's turns in it (log entry 5), is what the steps do: from between two frames, one step opens the frame, one runs each of its cycles, of which there may be none, and one closes it; a fatal error ends it sooner (log entries 6 and 7). -/
def Obligations.StepsMakeOneFrame : Prop :=
  ∀ s : State, s.params.valid = true → s.phase = .between →
    ∃ k, k ≤ s.frameCycles + 2 ∧ Host.Core.run core k s = frame s ∧
      ∀ t, frame s = .next t → t.isHalted = false → k = s.frameCycles + 2 ∧ t.phase = .between

/-- R113 (D21): in f frames of an unhalted session from credit 0, the scheduler has called cycle exactly floor(f * CLOCK_HZ / 60) times, the credit is the remainder, and one redraw signal was sent a frame. -/
def Obligations.CadenceLaw : Prop :=
  ∀ (f : Nat) (s t : State), s.credit = 0 → runFrames f s = .next t → t.isHalted = false →
    cyclesInFrames f s = f * s.params.clockHz / 60 ∧ t.credit = f * s.params.clockHz % 60 ∧
    t.redraws = s.redraws + f

/-- R114 (D27, D42): the host's turn sets the keys its calls name, in their order, and nothing else of the machine: with no call the keys stay as they are. True whatever the free calls are (log entry 5). -/
def Obligations.HostCallsSetKeysOnly : Prop :=
  ∀ s : State,
    s.hostTurn = { s with keys := s.hostTurn.keys, turns := s.turns + 1 } ∧
    s.hostTurn.keys = ((Config.hostCalls s.turns).foldl (fun u c => u.setKey c.key c.pressed) s).keys ∧
    (∀ k p, (s.setKey k p).keyDown k = p ∧ (∀ j, j ≠ k → (s.setKey k p).keyDown j = s.keyDown j) ∧
      s.setKey k p = { s with keys := (s.setKey k p).keys })

/-- R111 (D29): DRAW_SYNC has no effect on any state: the step of a machine with it set otherwise is the step of the machine, with it set otherwise. -/
def Obligations.DrawSyncHasNoEffect : Prop :=
  ∀ (s : State) (b : Bool), step (s.withDrawSync b) = mapNext (fun t => t.withDrawSync b) (step s)

/-! ### Reset and load (70_reset_and_hazards.md) -/

/-- R35 with the default parameters (log entry 2; D35 for the display, keys, mode and credit): every field of the spec's state at its reset value. -/
def Obligations.ResetValues : Prop :=
  (∀ r, State.reset.getV r = 0) ∧ State.reset.i = 0 ∧ State.reset.pc = 0x200 ∧ State.reset.sp = 0 ∧
  State.reset.stack.length = 16 ∧ (∀ w ∈ State.reset.stack, w = 0) ∧ State.reset.dt = 0 ∧ State.reset.st = 0 ∧
  (∀ x y, x < 64 → y < 32 → State.reset.getPixel x y = false) ∧ (∀ k, State.reset.keyDown k = false) ∧
  State.reset.mode = .running ∧ State.reset.credit = 0 ∧ State.reset.soundActive = false ∧
  (∀ a, a < 0x1000 → State.reset.readByte a =
    if 0x050 ≤ a ∧ a < 0x0A0 then referenceFont.getD (a - 0x050) 0 else 0)

/-- R270, R271 (D35): load of at most 3584 bytes gives the reset state with the program at 0x200, the font at FONT_BASE and 0 elsewhere; a longer program gives LoadError, and the session in being is unchanged. A load into a session in being starts the same new session, with the counters of free values running on (log entry 21). -/
def Obligations.LoadPlacesTheProgram : Prop :=
  ∀ (p : Params) (bytes : List Byte), p.valid = true →
    (bytes.length ≤ 3584 → ∃ s, loadProgram p bytes = .ok s ∧
      s = { State.initial p with mem := s.mem } ∧
      (∀ k, k < bytes.length → some (s.readByte (0x200 + k)) = bytes[k]?) ∧
      (∀ k, k < 80 → some (s.readByte (p.fontBase + k)) = p.fontTable[k]?) ∧
      (∀ a, a < 0x1000 → ¬(0x200 ≤ a ∧ a < 0x200 + bytes.length) →
        ¬(p.fontBase ≤ a ∧ a < p.fontBase + 80) → s.readByte a = 0)) ∧
    (bytes.length ≤ 3584 → ∀ s : State, s.params = p → ∃ t, loadProgram p bytes = .ok t ∧
      s.reload bytes = { t with draws := s.draws, turns := s.turns }) ∧
    (3584 < bytes.length → loadProgram p bytes = .error (.loadError bytes.length) ∧
      ∀ s : State, s.reload bytes = s)

/-! ### Invariants and rules of the whole machine -/

/-- The reset state meets the invariant. -/
def Obligations.ResetMeetsInvariant : Prop := State.reset.Inv

/-- Every session that load starts under valid parameters meets the invariant. -/
def Obligations.LoadMeetsInvariant : Prop :=
  ∀ (p : Params) (bytes : List Byte) (s : State), p.valid = true → loadProgram p bytes = .ok s → s.Inv

/-- Every step keeps the invariant: R36's bounds on SP, R32's on credit, PC within what D10 lets it reach, return addresses within memory's end, memory canonical, the parameters unchanged and valid. -/
def Obligations.StepKeepsInvariant : Prop :=
  ∀ s t : State, s.Inv → step s = .next t → t.Inv

/-- 93_implementation_defined.md: no behaviour is a refusal or stuck. Under valid parameters every step of every state answers a next state. -/
def Obligations.EveryStepAnswersNext : Prop :=
  ∀ s : State, s.params.valid = true → ∃ t, step s = .next t

/-- R52 (D7): of the instructions only FX33 and FX55 write memory. -/
def Obligations.OnlyStoresWriteMemory : Prop :=
  ∀ (i : Instr) (s t : State), exec i s = .next t → (∀ x, i ≠ .ldB x ∧ i ≠ .dump x) → MemoryKept s t

/-- R29: of the instructions only 00E0 and DXYN write the display. -/
def Obligations.OnlyClearAndDrawWriteDisplay : Prop :=
  ∀ (i : Instr) (s t : State), exec i s = .next t → i ≠ .cls → (∀ x y n, i ≠ .drw x y n) → DisplayKept s t

/-- R30 and the scheduler's fields: no instruction writes the keys, the credit, the frame, the parameters, the redraw count or the count of host turns. -/
def Obligations.InstructionsNeverWriteKeys : Prop :=
  ∀ (i : Instr) (s t : State), exec i s = .next t → OutsideKept s t

/-- R26 (D33): only 2NNN and 00EE access the call stack. -/
def Obligations.OnlyCallAndRetTouchStack : Prop :=
  ∀ (i : Instr) (s t : State), exec i s = .next t → i ≠ .ret → (∀ nnn, i ≠ .call nnn) → StackKept s t

/-- R24, R27, R28: the writers of I, DT and ST among the instructions. -/
def Obligations.SpecialRegisterWriters : Prop :=
  ∀ (i : Instr) (s t : State), exec i s = .next t →
    ((∀ nnn, i ≠ .ldI nnn) → (∀ x, i ≠ .addI x ∧ i ≠ .ldF x ∧ i ≠ .dump x ∧ i ≠ .load x) → t.i = s.i) ∧
    (s.params.indexQuirk = .unchanged → (∀ nnn, i ≠ .ldI nnn) → (∀ x, i ≠ .addI x ∧ i ≠ .ldF x) → t.i = s.i) ∧
    ((∀ x, i ≠ .ldDtVx x) → t.dt = s.dt) ∧ ((∀ x, i ≠ .ldStVx x) → t.st = s.st)

/-- R21, R22 (D16 for the logic group): the general registers an instruction writes are those the two rules list, VF as a flag only by the instructions they name. -/
def Obligations.GeneralRegisterWriters : Prop :=
  ∀ (i : Instr) (s t : State), exec i s = .next t → RegsKept (writtenRegs i) s t

/-- R104: an instruction that is no jump, call, return or skip leaves the advanced PC. -/
def Obligations.SequentialKeepsPc : Prop :=
  ∀ (i : Instr) (s t : State), exec i s = .next t → i ≠ .ret → (∀ nnn, i ≠ .jp nnn ∧ i ≠ .call nnn ∧ i ≠ .jpV0 nnn) →
    (∀ x nn, i ≠ .seImm x nn ∧ i ≠ .sneImm x nn) → (∀ x y, i ≠ .seReg x y ∧ i ≠ .sneReg x y) →
    (∀ x, i ≠ .skp x ∧ i ≠ .sknp x) → t.pc = s.pc

/-- R63 (D28): bytes a dump stores over the next instruction are what the next cycle runs, with no fence between. -/
def Obligations.StoresReachTheNextFetch : Prop :=
  ∀ (x : RegIdx) (s : State) (i : Instr), s.Inv → s.mode = .running → 0 < x.toNat → s.i = s.pc →
    s.pc.toNat + x.toNat ≤ 0xFFF → (s.params.misalignedPc = .allow ∨ s.pc.toNat % 2 = 0) →
    decode (s.getV 0 ++ s.getV 1) = .ok i →
    ∃ t, exec (.dump x) s = .next t ∧ cycle t = exec i { t with pc := t.pc + 2 }

/-- R5: the parameters are fixed for a session: no step changes them. -/
def Obligations.ParametersFixed : Prop :=
  ∀ s t : State, step s = .next t → t.params = s.params

/-- R107, R110 (D21, D22): a step of an unhalted machine opens a frame between two frames, closes it where no cycle is left, and is a cycle otherwise, each after the host's turn; and what opening and closing write (log entries 6 and 7). -/
def Obligations.StepsOpenAndCloseFrames : Prop :=
  ∀ s : State,
    (s.params.valid = true → s.isHalted = false →
      (s.phase = .between → step s = .next s.hostTurn.openFrame) ∧
      (s.phase = .inFrame 0 → step s = .next s.hostTurn.closeFrame) ∧
      (∀ n, s.phase = .inFrame (n + 1) → step s = cycle { s.hostTurn with phase := .inFrame n })) ∧
    s.openFrame = { s with
      credit := (s.credit + s.params.clockHz) % 60
      phase := .inFrame ((s.credit + s.params.clockHz) / 60)
      dt := if s.params.tickOrder = .tickThenCycles then s.timerTick.dt else s.dt
      st := if s.params.tickOrder = .tickThenCycles then s.timerTick.st else s.st } ∧
    s.closeFrame = { s with
      redraws := s.redraws + 1
      phase := .between
      dt := if s.params.tickOrder = .cyclesThenTick then s.timerTick.dt else s.dt
      st := if s.params.tickOrder = .cyclesThenTick then s.timerTick.st else s.st }
end

