-- ==== Sys2Proof/Laws/Decode.lean ====
section
/-! SUPPORT. The fields of a packed word are the fields it was packed from (R71), and the bytes of a word give the word back (R54). -/

namespace Sys2Proof

theorem extract_high {n m : Nat} (a : BitVec n) (b : BitVec m) : (a ++ b).extractLsb' m n = a := by
  rw [BitVec.extractLsb'_append_eq_of_le (Nat.le_refl m), Nat.sub_self, BitVec.extractLsb'_eq_self]

theorem extract_low {n m : Nat} (a : BitVec n) (b : BitVec m) : (a ++ b).extractLsb' 0 m = b := by
  rw [BitVec.extractLsb'_append_eq_of_add_le (by omega), BitVec.extractLsb'_eq_self]

@[simp] theorem fieldC_packNNN (c : Nibble) (nnn : Addr) : fieldC (packNNN c nnn) = c := extract_high c nnn
@[simp] theorem fieldNNN_packNNN (c : Nibble) (nnn : Addr) : fieldNNN (packNNN c nnn) = nnn := extract_low c nnn

@[simp] theorem fieldC_packXNN (c : Nibble) (x : RegIdx) (nn : Byte) : fieldC (packXNN c x nn) = c :=
  extract_high c (x ++ nn)

@[simp] theorem fieldX_packXNN (c : Nibble) (x : RegIdx) (nn : Byte) : fieldX (packXNN c x nn) = x := by
  unfold fieldX packXNN
  rw [BitVec.extractLsb'_append_eq_of_add_le (by omega)]
  exact extract_high x nn

@[simp] theorem fieldNN_packXNN (c : Nibble) (x : RegIdx) (nn : Byte) : fieldNN (packXNN c x nn) = nn := by
  unfold fieldNN packXNN
  rw [BitVec.extractLsb'_append_eq_of_add_le (by omega)]
  exact extract_low x nn

@[simp] theorem fieldC_packXYN (c : Nibble) (x y : RegIdx) (n : Nibble) : fieldC (packXYN c x y n) = c :=
  extract_high c (x ++ (y ++ n))

@[simp] theorem fieldX_packXYN (c : Nibble) (x y : RegIdx) (n : Nibble) : fieldX (packXYN c x y n) = x :=
  fieldX_packXNN c x (y ++ n)

theorem fieldNN_packXYN (c : Nibble) (x y : RegIdx) (n : Nibble) : fieldNN (packXYN c x y n) = y ++ n :=
  fieldNN_packXNN c x (y ++ n)

@[simp] theorem fieldY_packXYN (c : Nibble) (x y : RegIdx) (n : Nibble) : fieldY (packXYN c x y n) = y := by
  unfold fieldY packXYN
  rw [BitVec.extractLsb'_append_eq_of_add_le (by omega), BitVec.extractLsb'_append_eq_of_add_le (by omega)]
  exact extract_high y n

@[simp] theorem fieldN_packXYN (c : Nibble) (x y : RegIdx) (n : Nibble) : fieldN (packXYN c x y n) = n := by
  unfold fieldN packXYN
  rw [BitVec.extractLsb'_append_eq_of_add_le (by omega), BitVec.extractLsb'_append_eq_of_add_le (by omega)]
  exact extract_low y n

/-- The two bytes of a word give the word back (R54). -/
theorem wordOfBytes_bytes (w : Word) : wordOfBytes (highByte w) (lowByte w) = w := by
  unfold wordOfBytes highByte lowByte
  rw [BitVec.extractLsb'_append_extractLsb'_eq_extractLsb' (by omega)]
  exact BitVec.extractLsb'_eq_self

/-! ### The row of each packed form (R74) -/

theorem and_zeros {n : Nat} (a : BitVec n) : a &&& 0 = 0 := BitVec.and_zero

theorem admits_packNNN (c : Nibble) (nnn : Addr) : OpcodeRow.admits ⟨c ++ (0 : Addr), 0xF000⟩ (packNNN c nnn) = true := by
  have hm : (0xF000 : Word) = (0xF : Nibble) ++ (0 : Addr) := by decide
  have hc : c &&& 0xF = c := BitVec.and_allOnes (x := c)
  simp only [OpcodeRow.admits, packNNN, hm, beq_iff_eq]
  rw [BitVec.and_append, hc, and_zeros]

theorem admits_packXYN (c : Nibble) (x y : RegIdx) (n : Nibble) :
    OpcodeRow.admits ⟨c ++ ((0 : RegIdx) ++ ((0 : RegIdx) ++ n : Byte) : Addr), 0xF00F⟩ (packXYN c x y n) = true := by
  have hm : (0xF00F : Word) = (0xF : Nibble) ++ ((0 : RegIdx) ++ ((0 : RegIdx) ++ (0xF : Nibble) : Byte) : Addr) := by decide
  have hc : ∀ c : Nibble, c &&& 0xF = c := fun c => BitVec.and_allOnes (x := c)
  simp only [OpcodeRow.admits, packXYN, hm, beq_iff_eq]
  rw [BitVec.and_append, BitVec.and_append, BitVec.and_append, hc, hc, and_zeros, and_zeros]

theorem admits_packXNN (c : Nibble) (x : RegIdx) (nn : Byte) :
    OpcodeRow.admits ⟨c ++ ((0 : RegIdx) ++ nn : Addr), 0xF0FF⟩ (packXNN c x nn) = true := by
  have hm : (0xF0FF : Word) = (0xF : Nibble) ++ ((0 : RegIdx) ++ (0xFF : Byte) : Addr) := by decide
  have hc : c &&& 0xF = c := BitVec.and_allOnes (x := c)
  have hn : nn &&& 0xFF = nn := BitVec.and_allOnes (x := nn)
  simp only [OpcodeRow.admits, packXNN, hm, beq_iff_eq]
  rw [BitVec.and_append, BitVec.and_append, hc, hn, and_zeros]

end Sys2Proof
end

