-- ==== Sys2Proof/Laws/State.lean ====
section
/-! SUPPORT. One lemma for each field of State under each named update, so that no later proof unfolds a record update. -/

namespace Sys2Proof.Machine

variable (s : State)

@[simp] theorem setV_mem (x : RegIdx) (b : Byte) : (s.setV x b).mem = s.mem := rfl
@[simp] theorem setV_v (x : RegIdx) (b : Byte) : (s.setV x b).v = s.v.set x.toNat b x.isLt := rfl
@[simp] theorem setV_i (x : RegIdx) (b : Byte) : (s.setV x b).i = s.i := rfl
@[simp] theorem setV_pc (x : RegIdx) (b : Byte) : (s.setV x b).pc = s.pc := rfl
@[simp] theorem setV_stack (x : RegIdx) (b : Byte) : (s.setV x b).stack = s.stack := rfl
@[simp] theorem setV_sp (x : RegIdx) (b : Byte) : (s.setV x b).sp = s.sp := rfl
@[simp] theorem setV_dt (x : RegIdx) (b : Byte) : (s.setV x b).dt = s.dt := rfl
@[simp] theorem setV_st (x : RegIdx) (b : Byte) : (s.setV x b).st = s.st := rfl
@[simp] theorem setV_display (x : RegIdx) (b : Byte) : (s.setV x b).display = s.display := rfl
@[simp] theorem setV_keys (x : RegIdx) (b : Byte) : (s.setV x b).keys = s.keys := rfl
@[simp] theorem setV_mode (x : RegIdx) (b : Byte) : (s.setV x b).mode = s.mode := rfl
@[simp] theorem setV_credit (x : RegIdx) (b : Byte) : (s.setV x b).credit = s.credit := rfl
@[simp] theorem setV_params (x : RegIdx) (b : Byte) : (s.setV x b).params = s.params := rfl
@[simp] theorem setV_phase (x : RegIdx) (b : Byte) : (s.setV x b).phase = s.phase := rfl
@[simp] theorem setV_redraws (x : RegIdx) (b : Byte) : (s.setV x b).redraws = s.redraws := rfl
@[simp] theorem setV_draws (x : RegIdx) (b : Byte) : (s.setV x b).draws = s.draws := rfl
@[simp] theorem setV_turns (x : RegIdx) (b : Byte) : (s.setV x b).turns = s.turns := rfl

@[simp] theorem setI_mem (w : Word) : (s.setI w).mem = s.mem := rfl
@[simp] theorem setI_v (w : Word) : (s.setI w).v = s.v := rfl
@[simp] theorem setI_i (w : Word) : (s.setI w).i = w := rfl
@[simp] theorem setI_pc (w : Word) : (s.setI w).pc = s.pc := rfl
@[simp] theorem setI_stack (w : Word) : (s.setI w).stack = s.stack := rfl
@[simp] theorem setI_sp (w : Word) : (s.setI w).sp = s.sp := rfl
@[simp] theorem setI_dt (w : Word) : (s.setI w).dt = s.dt := rfl
@[simp] theorem setI_st (w : Word) : (s.setI w).st = s.st := rfl
@[simp] theorem setI_display (w : Word) : (s.setI w).display = s.display := rfl
@[simp] theorem setI_keys (w : Word) : (s.setI w).keys = s.keys := rfl
@[simp] theorem setI_mode (w : Word) : (s.setI w).mode = s.mode := rfl
@[simp] theorem setI_credit (w : Word) : (s.setI w).credit = s.credit := rfl
@[simp] theorem setI_params (w : Word) : (s.setI w).params = s.params := rfl
@[simp] theorem setI_phase (w : Word) : (s.setI w).phase = s.phase := rfl
@[simp] theorem setI_redraws (w : Word) : (s.setI w).redraws = s.redraws := rfl
@[simp] theorem setI_draws (w : Word) : (s.setI w).draws = s.draws := rfl
@[simp] theorem setI_turns (w : Word) : (s.setI w).turns = s.turns := rfl

@[simp] theorem setPc_mem (w : Word) : (s.setPc w).mem = s.mem := rfl
@[simp] theorem setPc_v (w : Word) : (s.setPc w).v = s.v := rfl
@[simp] theorem setPc_i (w : Word) : (s.setPc w).i = s.i := rfl
@[simp] theorem setPc_pc (w : Word) : (s.setPc w).pc = w := rfl
@[simp] theorem setPc_stack (w : Word) : (s.setPc w).stack = s.stack := rfl
@[simp] theorem setPc_sp (w : Word) : (s.setPc w).sp = s.sp := rfl
@[simp] theorem setPc_dt (w : Word) : (s.setPc w).dt = s.dt := rfl
@[simp] theorem setPc_st (w : Word) : (s.setPc w).st = s.st := rfl
@[simp] theorem setPc_display (w : Word) : (s.setPc w).display = s.display := rfl
@[simp] theorem setPc_keys (w : Word) : (s.setPc w).keys = s.keys := rfl
@[simp] theorem setPc_mode (w : Word) : (s.setPc w).mode = s.mode := rfl
@[simp] theorem setPc_credit (w : Word) : (s.setPc w).credit = s.credit := rfl
@[simp] theorem setPc_params (w : Word) : (s.setPc w).params = s.params := rfl
@[simp] theorem setPc_phase (w : Word) : (s.setPc w).phase = s.phase := rfl
@[simp] theorem setPc_redraws (w : Word) : (s.setPc w).redraws = s.redraws := rfl
@[simp] theorem setPc_draws (w : Word) : (s.setPc w).draws = s.draws := rfl
@[simp] theorem setPc_turns (w : Word) : (s.setPc w).turns = s.turns := rfl

@[simp] theorem setDt_mem (b : Byte) : (s.setDt b).mem = s.mem := rfl
@[simp] theorem setDt_v (b : Byte) : (s.setDt b).v = s.v := rfl
@[simp] theorem setDt_i (b : Byte) : (s.setDt b).i = s.i := rfl
@[simp] theorem setDt_pc (b : Byte) : (s.setDt b).pc = s.pc := rfl
@[simp] theorem setDt_stack (b : Byte) : (s.setDt b).stack = s.stack := rfl
@[simp] theorem setDt_sp (b : Byte) : (s.setDt b).sp = s.sp := rfl
@[simp] theorem setDt_dt (b : Byte) : (s.setDt b).dt = b := rfl
@[simp] theorem setDt_st (b : Byte) : (s.setDt b).st = s.st := rfl
@[simp] theorem setDt_display (b : Byte) : (s.setDt b).display = s.display := rfl
@[simp] theorem setDt_keys (b : Byte) : (s.setDt b).keys = s.keys := rfl
@[simp] theorem setDt_mode (b : Byte) : (s.setDt b).mode = s.mode := rfl
@[simp] theorem setDt_credit (b : Byte) : (s.setDt b).credit = s.credit := rfl
@[simp] theorem setDt_params (b : Byte) : (s.setDt b).params = s.params := rfl
@[simp] theorem setDt_phase (b : Byte) : (s.setDt b).phase = s.phase := rfl
@[simp] theorem setDt_redraws (b : Byte) : (s.setDt b).redraws = s.redraws := rfl
@[simp] theorem setDt_draws (b : Byte) : (s.setDt b).draws = s.draws := rfl
@[simp] theorem setDt_turns (b : Byte) : (s.setDt b).turns = s.turns := rfl

@[simp] theorem setSt_mem (b : Byte) : (s.setSt b).mem = s.mem := rfl
@[simp] theorem setSt_v (b : Byte) : (s.setSt b).v = s.v := rfl
@[simp] theorem setSt_i (b : Byte) : (s.setSt b).i = s.i := rfl
@[simp] theorem setSt_pc (b : Byte) : (s.setSt b).pc = s.pc := rfl
@[simp] theorem setSt_stack (b : Byte) : (s.setSt b).stack = s.stack := rfl
@[simp] theorem setSt_sp (b : Byte) : (s.setSt b).sp = s.sp := rfl
@[simp] theorem setSt_dt (b : Byte) : (s.setSt b).dt = s.dt := rfl
@[simp] theorem setSt_st (b : Byte) : (s.setSt b).st = b := rfl
@[simp] theorem setSt_display (b : Byte) : (s.setSt b).display = s.display := rfl
@[simp] theorem setSt_keys (b : Byte) : (s.setSt b).keys = s.keys := rfl
@[simp] theorem setSt_mode (b : Byte) : (s.setSt b).mode = s.mode := rfl
@[simp] theorem setSt_credit (b : Byte) : (s.setSt b).credit = s.credit := rfl
@[simp] theorem setSt_params (b : Byte) : (s.setSt b).params = s.params := rfl
@[simp] theorem setSt_phase (b : Byte) : (s.setSt b).phase = s.phase := rfl
@[simp] theorem setSt_redraws (b : Byte) : (s.setSt b).redraws = s.redraws := rfl
@[simp] theorem setSt_draws (b : Byte) : (s.setSt b).draws = s.draws := rfl
@[simp] theorem setSt_turns (b : Byte) : (s.setSt b).turns = s.turns := rfl

@[simp] theorem setDisplay_mem (d : Display) : (s.setDisplay d).mem = s.mem := rfl
@[simp] theorem setDisplay_v (d : Display) : (s.setDisplay d).v = s.v := rfl
@[simp] theorem setDisplay_i (d : Display) : (s.setDisplay d).i = s.i := rfl
@[simp] theorem setDisplay_pc (d : Display) : (s.setDisplay d).pc = s.pc := rfl
@[simp] theorem setDisplay_stack (d : Display) : (s.setDisplay d).stack = s.stack := rfl
@[simp] theorem setDisplay_sp (d : Display) : (s.setDisplay d).sp = s.sp := rfl
@[simp] theorem setDisplay_dt (d : Display) : (s.setDisplay d).dt = s.dt := rfl
@[simp] theorem setDisplay_st (d : Display) : (s.setDisplay d).st = s.st := rfl
@[simp] theorem setDisplay_display (d : Display) : (s.setDisplay d).display = d := rfl
@[simp] theorem setDisplay_keys (d : Display) : (s.setDisplay d).keys = s.keys := rfl
@[simp] theorem setDisplay_mode (d : Display) : (s.setDisplay d).mode = s.mode := rfl
@[simp] theorem setDisplay_credit (d : Display) : (s.setDisplay d).credit = s.credit := rfl
@[simp] theorem setDisplay_params (d : Display) : (s.setDisplay d).params = s.params := rfl
@[simp] theorem setDisplay_phase (d : Display) : (s.setDisplay d).phase = s.phase := rfl
@[simp] theorem setDisplay_redraws (d : Display) : (s.setDisplay d).redraws = s.redraws := rfl
@[simp] theorem setDisplay_draws (d : Display) : (s.setDisplay d).draws = s.draws := rfl
@[simp] theorem setDisplay_turns (d : Display) : (s.setDisplay d).turns = s.turns := rfl

@[simp] theorem setMode_mem (m : Mode) : (s.setMode m).mem = s.mem := rfl
@[simp] theorem setMode_v (m : Mode) : (s.setMode m).v = s.v := rfl
@[simp] theorem setMode_i (m : Mode) : (s.setMode m).i = s.i := rfl
@[simp] theorem setMode_pc (m : Mode) : (s.setMode m).pc = s.pc := rfl
@[simp] theorem setMode_stack (m : Mode) : (s.setMode m).stack = s.stack := rfl
@[simp] theorem setMode_sp (m : Mode) : (s.setMode m).sp = s.sp := rfl
@[simp] theorem setMode_dt (m : Mode) : (s.setMode m).dt = s.dt := rfl
@[simp] theorem setMode_st (m : Mode) : (s.setMode m).st = s.st := rfl
@[simp] theorem setMode_display (m : Mode) : (s.setMode m).display = s.display := rfl
@[simp] theorem setMode_keys (m : Mode) : (s.setMode m).keys = s.keys := rfl
@[simp] theorem setMode_mode (m : Mode) : (s.setMode m).mode = m := rfl
@[simp] theorem setMode_credit (m : Mode) : (s.setMode m).credit = s.credit := rfl
@[simp] theorem setMode_params (m : Mode) : (s.setMode m).params = s.params := rfl
@[simp] theorem setMode_phase (m : Mode) : (s.setMode m).phase = s.phase := rfl
@[simp] theorem setMode_redraws (m : Mode) : (s.setMode m).redraws = s.redraws := rfl
@[simp] theorem setMode_draws (m : Mode) : (s.setMode m).draws = s.draws := rfl
@[simp] theorem setMode_turns (m : Mode) : (s.setMode m).turns = s.turns := rfl

@[simp] theorem raise_mem (e : FatalError) : (s.raise e).mem = s.mem := rfl
@[simp] theorem raise_v (e : FatalError) : (s.raise e).v = s.v := rfl
@[simp] theorem raise_i (e : FatalError) : (s.raise e).i = s.i := rfl
@[simp] theorem raise_pc (e : FatalError) : (s.raise e).pc = s.pc := rfl
@[simp] theorem raise_stack (e : FatalError) : (s.raise e).stack = s.stack := rfl
@[simp] theorem raise_sp (e : FatalError) : (s.raise e).sp = s.sp := rfl
@[simp] theorem raise_dt (e : FatalError) : (s.raise e).dt = s.dt := rfl
@[simp] theorem raise_st (e : FatalError) : (s.raise e).st = s.st := rfl
@[simp] theorem raise_display (e : FatalError) : (s.raise e).display = s.display := rfl
@[simp] theorem raise_keys (e : FatalError) : (s.raise e).keys = s.keys := rfl
@[simp] theorem raise_mode (e : FatalError) : (s.raise e).mode = .halted e := rfl
@[simp] theorem raise_credit (e : FatalError) : (s.raise e).credit = s.credit := rfl
@[simp] theorem raise_params (e : FatalError) : (s.raise e).params = s.params := rfl
@[simp] theorem raise_phase (e : FatalError) : (s.raise e).phase = s.phase := rfl
@[simp] theorem raise_redraws (e : FatalError) : (s.raise e).redraws = s.redraws := rfl
@[simp] theorem raise_draws (e : FatalError) : (s.raise e).draws = s.draws := rfl
@[simp] theorem raise_turns (e : FatalError) : (s.raise e).turns = s.turns := rfl

@[simp] theorem writeByte_mem (a : Nat) (x : Byte) : (s.writeByte a x).mem = Memory.write (unlistedByte s.params) s.mem a x := rfl
@[simp] theorem writeByte_v (a : Nat) (x : Byte) : (s.writeByte a x).v = s.v := rfl
@[simp] theorem writeByte_i (a : Nat) (x : Byte) : (s.writeByte a x).i = s.i := rfl
@[simp] theorem writeByte_pc (a : Nat) (x : Byte) : (s.writeByte a x).pc = s.pc := rfl
@[simp] theorem writeByte_stack (a : Nat) (x : Byte) : (s.writeByte a x).stack = s.stack := rfl
@[simp] theorem writeByte_sp (a : Nat) (x : Byte) : (s.writeByte a x).sp = s.sp := rfl
@[simp] theorem writeByte_dt (a : Nat) (x : Byte) : (s.writeByte a x).dt = s.dt := rfl
@[simp] theorem writeByte_st (a : Nat) (x : Byte) : (s.writeByte a x).st = s.st := rfl
@[simp] theorem writeByte_display (a : Nat) (x : Byte) : (s.writeByte a x).display = s.display := rfl
@[simp] theorem writeByte_keys (a : Nat) (x : Byte) : (s.writeByte a x).keys = s.keys := rfl
@[simp] theorem writeByte_mode (a : Nat) (x : Byte) : (s.writeByte a x).mode = s.mode := rfl
@[simp] theorem writeByte_credit (a : Nat) (x : Byte) : (s.writeByte a x).credit = s.credit := rfl
@[simp] theorem writeByte_params (a : Nat) (x : Byte) : (s.writeByte a x).params = s.params := rfl
@[simp] theorem writeByte_phase (a : Nat) (x : Byte) : (s.writeByte a x).phase = s.phase := rfl
@[simp] theorem writeByte_redraws (a : Nat) (x : Byte) : (s.writeByte a x).redraws = s.redraws := rfl
@[simp] theorem writeByte_draws (a : Nat) (x : Byte) : (s.writeByte a x).draws = s.draws := rfl
@[simp] theorem writeByte_turns (a : Nat) (x : Byte) : (s.writeByte a x).turns = s.turns := rfl

@[simp] theorem push_mem (w : Word) : (s.push w).mem = s.mem := rfl
@[simp] theorem push_v (w : Word) : (s.push w).v = s.v := rfl
@[simp] theorem push_i (w : Word) : (s.push w).i = s.i := rfl
@[simp] theorem push_pc (w : Word) : (s.push w).pc = s.pc := rfl
@[simp] theorem push_stack (w : Word) : (s.push w).stack = s.stack.set s.sp w := rfl
@[simp] theorem push_sp (w : Word) : (s.push w).sp = s.sp + 1 := rfl
@[simp] theorem push_dt (w : Word) : (s.push w).dt = s.dt := rfl
@[simp] theorem push_st (w : Word) : (s.push w).st = s.st := rfl
@[simp] theorem push_display (w : Word) : (s.push w).display = s.display := rfl
@[simp] theorem push_keys (w : Word) : (s.push w).keys = s.keys := rfl
@[simp] theorem push_mode (w : Word) : (s.push w).mode = s.mode := rfl
@[simp] theorem push_credit (w : Word) : (s.push w).credit = s.credit := rfl
@[simp] theorem push_params (w : Word) : (s.push w).params = s.params := rfl
@[simp] theorem push_phase (w : Word) : (s.push w).phase = s.phase := rfl
@[simp] theorem push_redraws (w : Word) : (s.push w).redraws = s.redraws := rfl
@[simp] theorem push_draws (w : Word) : (s.push w).draws = s.draws := rfl
@[simp] theorem push_turns (w : Word) : (s.push w).turns = s.turns := rfl

@[simp] theorem drop_mem : s.drop.mem = s.mem := rfl
@[simp] theorem drop_v : s.drop.v = s.v := rfl
@[simp] theorem drop_i : s.drop.i = s.i := rfl
@[simp] theorem drop_pc : s.drop.pc = s.pc := rfl
@[simp] theorem drop_stack : s.drop.stack = s.stack := rfl
@[simp] theorem drop_sp : s.drop.sp = s.sp - 1 := rfl
@[simp] theorem drop_dt : s.drop.dt = s.dt := rfl
@[simp] theorem drop_st : s.drop.st = s.st := rfl
@[simp] theorem drop_display : s.drop.display = s.display := rfl
@[simp] theorem drop_keys : s.drop.keys = s.keys := rfl
@[simp] theorem drop_mode : s.drop.mode = s.mode := rfl
@[simp] theorem drop_credit : s.drop.credit = s.credit := rfl
@[simp] theorem drop_params : s.drop.params = s.params := rfl
@[simp] theorem drop_phase : s.drop.phase = s.phase := rfl
@[simp] theorem drop_redraws : s.drop.redraws = s.redraws := rfl
@[simp] theorem drop_draws : s.drop.draws = s.draws := rfl
@[simp] theorem drop_turns : s.drop.turns = s.turns := rfl

@[simp] theorem drawn_mem : s.drawn.mem = s.mem := rfl
@[simp] theorem drawn_v : s.drawn.v = s.v := rfl
@[simp] theorem drawn_i : s.drawn.i = s.i := rfl
@[simp] theorem drawn_pc : s.drawn.pc = s.pc := rfl
@[simp] theorem drawn_stack : s.drawn.stack = s.stack := rfl
@[simp] theorem drawn_sp : s.drawn.sp = s.sp := rfl
@[simp] theorem drawn_dt : s.drawn.dt = s.dt := rfl
@[simp] theorem drawn_st : s.drawn.st = s.st := rfl
@[simp] theorem drawn_display : s.drawn.display = s.display := rfl
@[simp] theorem drawn_keys : s.drawn.keys = s.keys := rfl
@[simp] theorem drawn_mode : s.drawn.mode = s.mode := rfl
@[simp] theorem drawn_credit : s.drawn.credit = s.credit := rfl
@[simp] theorem drawn_params : s.drawn.params = s.params := rfl
@[simp] theorem drawn_phase : s.drawn.phase = s.phase := rfl
@[simp] theorem drawn_redraws : s.drawn.redraws = s.redraws := rfl
@[simp] theorem drawn_draws : s.drawn.draws = s.draws + 1 := rfl
@[simp] theorem drawn_turns : s.drawn.turns = s.turns := rfl

@[simp] theorem advancePc_mem : s.advancePc.mem = s.mem := rfl
@[simp] theorem advancePc_v : s.advancePc.v = s.v := rfl
@[simp] theorem advancePc_i : s.advancePc.i = s.i := rfl
@[simp] theorem advancePc_pc : s.advancePc.pc = s.pc + 2 := rfl
@[simp] theorem advancePc_stack : s.advancePc.stack = s.stack := rfl
@[simp] theorem advancePc_sp : s.advancePc.sp = s.sp := rfl
@[simp] theorem advancePc_dt : s.advancePc.dt = s.dt := rfl
@[simp] theorem advancePc_st : s.advancePc.st = s.st := rfl
@[simp] theorem advancePc_display : s.advancePc.display = s.display := rfl
@[simp] theorem advancePc_keys : s.advancePc.keys = s.keys := rfl
@[simp] theorem advancePc_mode : s.advancePc.mode = s.mode := rfl
@[simp] theorem advancePc_credit : s.advancePc.credit = s.credit := rfl
@[simp] theorem advancePc_params : s.advancePc.params = s.params := rfl
@[simp] theorem advancePc_phase : s.advancePc.phase = s.phase := rfl
@[simp] theorem advancePc_redraws : s.advancePc.redraws = s.redraws := rfl
@[simp] theorem advancePc_draws : s.advancePc.draws = s.draws := rfl
@[simp] theorem advancePc_turns : s.advancePc.turns = s.turns := rfl

@[simp] theorem timerTick_mem : s.timerTick.mem = s.mem := rfl
@[simp] theorem timerTick_v : s.timerTick.v = s.v := rfl
@[simp] theorem timerTick_i : s.timerTick.i = s.i := rfl
@[simp] theorem timerTick_pc : s.timerTick.pc = s.pc := rfl
@[simp] theorem timerTick_stack : s.timerTick.stack = s.stack := rfl
@[simp] theorem timerTick_sp : s.timerTick.sp = s.sp := rfl
@[simp] theorem timerTick_dt : s.timerTick.dt = tickDown s.dt := rfl
@[simp] theorem timerTick_st : s.timerTick.st = tickDown s.st := rfl
@[simp] theorem timerTick_display : s.timerTick.display = s.display := rfl
@[simp] theorem timerTick_keys : s.timerTick.keys = s.keys := rfl
@[simp] theorem timerTick_mode : s.timerTick.mode = s.mode := rfl
@[simp] theorem timerTick_credit : s.timerTick.credit = s.credit := rfl
@[simp] theorem timerTick_params : s.timerTick.params = s.params := rfl
@[simp] theorem timerTick_phase : s.timerTick.phase = s.phase := rfl
@[simp] theorem timerTick_redraws : s.timerTick.redraws = s.redraws := rfl
@[simp] theorem timerTick_draws : s.timerTick.draws = s.draws := rfl
@[simp] theorem timerTick_turns : s.timerTick.turns = s.turns := rfl

@[simp] theorem setPhase_mem (p : Phase) : (s.setPhase p).mem = s.mem := rfl
@[simp] theorem setPhase_v (p : Phase) : (s.setPhase p).v = s.v := rfl
@[simp] theorem setPhase_i (p : Phase) : (s.setPhase p).i = s.i := rfl
@[simp] theorem setPhase_pc (p : Phase) : (s.setPhase p).pc = s.pc := rfl
@[simp] theorem setPhase_stack (p : Phase) : (s.setPhase p).stack = s.stack := rfl
@[simp] theorem setPhase_sp (p : Phase) : (s.setPhase p).sp = s.sp := rfl
@[simp] theorem setPhase_dt (p : Phase) : (s.setPhase p).dt = s.dt := rfl
@[simp] theorem setPhase_st (p : Phase) : (s.setPhase p).st = s.st := rfl
@[simp] theorem setPhase_display (p : Phase) : (s.setPhase p).display = s.display := rfl
@[simp] theorem setPhase_keys (p : Phase) : (s.setPhase p).keys = s.keys := rfl
@[simp] theorem setPhase_mode (p : Phase) : (s.setPhase p).mode = s.mode := rfl
@[simp] theorem setPhase_credit (p : Phase) : (s.setPhase p).credit = s.credit := rfl
@[simp] theorem setPhase_params (p : Phase) : (s.setPhase p).params = s.params := rfl
@[simp] theorem setPhase_phase (p : Phase) : (s.setPhase p).phase = p := rfl
@[simp] theorem setPhase_redraws (p : Phase) : (s.setPhase p).redraws = s.redraws := rfl
@[simp] theorem setPhase_draws (p : Phase) : (s.setPhase p).draws = s.draws := rfl
@[simp] theorem setPhase_turns (p : Phase) : (s.setPhase p).turns = s.turns := rfl

@[simp] theorem hostTurn_mem : s.hostTurn.mem = s.mem := rfl
@[simp] theorem hostTurn_v : s.hostTurn.v = s.v := rfl
@[simp] theorem hostTurn_i : s.hostTurn.i = s.i := rfl
@[simp] theorem hostTurn_pc : s.hostTurn.pc = s.pc := rfl
@[simp] theorem hostTurn_stack : s.hostTurn.stack = s.stack := rfl
@[simp] theorem hostTurn_sp : s.hostTurn.sp = s.sp := rfl
@[simp] theorem hostTurn_dt : s.hostTurn.dt = s.dt := rfl
@[simp] theorem hostTurn_st : s.hostTurn.st = s.st := rfl
@[simp] theorem hostTurn_display : s.hostTurn.display = s.display := rfl
@[simp] theorem hostTurn_mode : s.hostTurn.mode = s.mode := rfl
@[simp] theorem hostTurn_credit : s.hostTurn.credit = s.credit := rfl
@[simp] theorem hostTurn_params : s.hostTurn.params = s.params := rfl
@[simp] theorem hostTurn_phase : s.hostTurn.phase = s.phase := rfl
@[simp] theorem hostTurn_redraws : s.hostTurn.redraws = s.redraws := rfl
@[simp] theorem hostTurn_draws : s.hostTurn.draws = s.draws := rfl
@[simp] theorem hostTurn_turns : s.hostTurn.turns = s.turns + 1 := rfl

end Sys2Proof.Machine
end

