-- ==== Sys2Proof/Laws/Display.lean ====
section
/-! SUPPORT. One pixel flipped: it alone changes (R202). -/

namespace Sys2Proof.Machine

theorem pixelOf_eq (d : Display) {x y : Nat} (hx : x < 64) (hy : y < 32) : pixelOf d x y = (d[y])[x] := by
  simp [pixelOf, Vector.getD, hx, hy]

/-- A flip changes the one pixel it names, where it names a pixel of the screen. -/
theorem pixelOf_flipPixel (d : Display) {x y : Nat} (hx : x < 64) (hy : y < 32) (px py : Nat) :
    pixelOf (flipPixel d x y) px py = if px = x ∧ py = y then !pixelOf d x y else pixelOf d px py := by
  by_cases hpy : py < 32
  · by_cases hpx : px < 64
    · rw [pixelOf_eq _ hpx hpy, pixelOf_eq d hpx hpy]
      simp only [flipPixel, Vector.getElem_setIfInBounds]
      by_cases h1 : y = py
      · subst h1
        simp only [if_true, Vector.getElem_setIfInBounds, Vector.getD, and_true]
        by_cases h2 : x = px
        · simp [h2]
        · simp [h2, Ne.symm h2, Vector.getElem?_eq_getElem hy]
      · simp [h1, Ne.symm h1]
    · have hne : ¬(px = x ∧ py = y) := fun h => hpx (h.1 ▸ hx)
      simp [pixelOf, Vector.getD, hpx, hpy, hne]
  · have hne : ¬(px = x ∧ py = y) := fun h => hpy (h.2 ▸ hy)
    rw [if_neg hne]
    simp [pixelOf, Vector.getD, hpy]

/-- What `place` answers lies on the screen (R203). -/
theorem place_on_screen {e : SpriteEdge} {px py qx qy : Nat} (h : place e px py = some (qx, qy)) :
    qx < 64 ∧ qy < 32 := by
  unfold place at h
  split at h
  · split at h
    · injection h with h; injection h with h1 h2; omega
    · cases h
  · injection h with h; injection h with h1 h2; omega

end Sys2Proof.Machine
end

