-- ==== Sys2Proof/Laws/Memory.lean ====
section
/-! SUPPORT. Memory: a read after a write, and every memory operation keeps the canonical form. -/

namespace Sys2Proof.Machine

variable {d : Nat → Byte}

/-! ### The list -/

theorem Memory.above_cons {b e : Nat} {u : Byte} {rest : List Host.Cell} :
    Memory.above b ((e, u) :: rest) = true ↔ b < e ∧ Memory.above b rest = true := by
  simp [Memory.above]

theorem Memory.above_mono {a b : Nat} (hab : a ≤ b) {m : List Host.Cell} (h : Memory.above b m = true) :
    Memory.above a m = true := by
  simp only [Memory.above, List.all_eq_true, decide_eq_true_eq] at *
  intro c hc
  exact Nat.lt_of_le_of_lt hab (h c hc)

theorem Memory.wf_cons {a : Nat} {x : Byte} {rest : List Host.Cell} :
    Memory.wf d ((a, x) :: rest) = true ↔
      a < 0x1000 ∧ x ≠ d a ∧ Memory.above a rest = true ∧ Memory.wf d rest = true := by
  simp [Memory.wf, and_assoc]

theorem Memory.above_write {b a : Nat} {x : Byte} (hab : b < a) {m : List Host.Cell}
    (h : Memory.above b m = true) : Memory.above b (Memory.write d m a x) = true := by
  induction m with
  | nil => unfold Memory.write; split <;> simp [Memory.above, hab]
  | cons c rest ih =>
    obtain ⟨e, u⟩ := c
    obtain ⟨hbe, hrest⟩ := Memory.above_cons.mp h
    unfold Memory.write
    split_ifs
    · exact h
    · exact Memory.above_cons.mpr ⟨hab, h⟩
    · exact hrest
    · exact Memory.above_cons.mpr ⟨hab, hrest⟩
    · exact Memory.above_cons.mpr ⟨hbe, ih hrest⟩

/-- A write below 0x1000 keeps the canonical form. -/
theorem Memory.wf_write {a : Nat} {x : Byte} (ha : a < 0x1000) {m : List Host.Cell}
    (h : Memory.wf d m = true) : Memory.wf d (Memory.write d m a x) = true := by
  induction m with
  | nil =>
    unfold Memory.write
    split_ifs with hx
    · exact h
    · exact Memory.wf_cons.mpr ⟨ha, hx, rfl, rfl⟩
  | cons c rest ih =>
    obtain ⟨e, u⟩ := c
    obtain ⟨he, hu, habove, hrest⟩ := Memory.wf_cons.mp h
    unfold Memory.write
    split_ifs with hlt hx heq hx
    · exact h
    · exact Memory.wf_cons.mpr
        ⟨ha, hx, Memory.above_cons.mpr ⟨hlt, Memory.above_mono (Nat.le_of_lt hlt) habove⟩, h⟩
    · exact hrest
    · exact Memory.wf_cons.mpr ⟨ha, hx, heq ▸ habove, hrest⟩
    · exact Memory.wf_cons.mpr ⟨he, hu, Memory.above_write (by omega) habove, ih hrest⟩

/-- An address below all the listed ones reads as its unlisted contents. -/
theorem Memory.read_of_above {a : Nat} {m : List Host.Cell} (h : Memory.above a m = true) :
    Memory.read d m a = d a := by
  induction m with
  | nil => rfl
  | cons c rest ih =>
    obtain ⟨e, u⟩ := c
    obtain ⟨hae, hrest⟩ := Memory.above_cons.mp h
    rw [Memory.read, if_neg (Nat.ne_of_lt hae), ih hrest]

/-- A read after a write to the same place gives the byte written. -/
theorem Memory.read_write_same {a : Nat} {x : Byte} {m : List Host.Cell} (h : Memory.wf d m = true) :
    Memory.read d (Memory.write d m a x) a = x := by
  induction m with
  | nil => unfold Memory.write; split_ifs with hx <;> simp [Memory.read, hx]
  | cons c rest ih =>
    obtain ⟨e, u⟩ := c
    obtain ⟨_, _, habove, hrest⟩ := Memory.wf_cons.mp h
    unfold Memory.write
    split_ifs with hlt hx heq hx
    · rw [hx, Memory.read_of_above
        (Memory.above_cons.mpr ⟨hlt, Memory.above_mono (Nat.le_of_lt hlt) habove⟩)]
    · simp [Memory.read]
    · rw [hx, Memory.read_of_above (heq ▸ habove)]
    · simp [Memory.read]
    · rw [Memory.read, if_neg heq, ih hrest]

/-- A write leaves every other place alone. -/
theorem Memory.read_write_other {a b : Nat} {x : Byte} (hab : b ≠ a) (m : List Host.Cell) :
    Memory.read d (Memory.write d m a x) b = Memory.read d m b := by
  induction m with
  | nil => unfold Memory.write; split_ifs <;> simp [Memory.read, hab]
  | cons c rest ih =>
    obtain ⟨e, u⟩ := c
    unfold Memory.write
    split_ifs with hlt hx heq hx
    · rfl
    · simp [Memory.read, hab]
    · rw [Memory.read, if_neg (heq ▸ hab)]
    · simp [Memory.read, hab, heq ▸ hab]
    · simp only [Memory.read, ih]

/-! ### The state's memory -/

/-- The memory of the state is in canonical form (R50). -/
abbrev State.MemWf (s : State) : Prop := Memory.wf (unlistedByte s.params) s.mem = true

theorem MemWf_writeByte {s : State} {a : Nat} (ha : a < 0x1000) (x : Byte) (h : s.MemWf) :
    (s.writeByte a x).MemWf := Memory.wf_write ha h

theorem readByte_writeByte_same {s : State} (a : Nat) (x : Byte) (h : s.MemWf) :
    (s.writeByte a x).readByte a = x := Memory.read_write_same h

theorem readByte_writeByte_other (s : State) {a b : Nat} (x : Byte) (hab : b ≠ a) :
    (s.writeByte a x).readByte b = s.readByte b := Memory.read_write_other hab s.mem

/-- A byte read depends on the memory list and the parameters alone. -/
theorem readByte_congr {s t : State} (hm : t.mem = s.mem) (hp : t.params = s.params) (a : Nat) :
    t.readByte a = s.readByte a := by
  simp only [State.readByte, hm, hp]

/-! ### Bytes written one after another (FX33, FX55, load) -/

/-- Only the memory list is written. -/
theorem writeBytes_eq (bs : List Byte) :
    ∀ (s : State) (a : Nat), s.writeBytes a bs = { s with mem := (s.writeBytes a bs).mem } := by
  induction bs with
  | nil => intro s a; rfl
  | cons x rest ih => intro s a; rw [State.writeBytes, ih]; rfl

theorem writeBytes_params (s : State) (a : Nat) (bs : List Byte) : (s.writeBytes a bs).params = s.params := by
  rw [writeBytes_eq]

theorem MemWf_writeBytes (bs : List Byte) :
    ∀ {s : State} {a : Nat}, a + bs.length ≤ 0x1000 → s.MemWf → (s.writeBytes a bs).MemWf := by
  induction bs with
  | nil => intro s a _ h; exact h
  | cons x rest ih =>
    intro s a ha h
    simp only [List.length_cons] at ha
    exact ih (by omega) (MemWf_writeByte (by omega) x h)

/-- Outside the bytes written, memory reads as before. -/
theorem readByte_writeBytes_other (bs : List Byte) :
    ∀ (s : State) (a b : Nat), ¬(a ≤ b ∧ b < a + bs.length) →
      (s.writeBytes a bs).readByte b = s.readByte b := by
  induction bs with
  | nil => intro s a b _; rfl
  | cons x rest ih =>
    intro s a b hb
    simp only [List.length_cons] at hb
    rw [State.writeBytes, ih _ _ _ (by omega), readByte_writeByte_other _ _ (by omega)]

/-- The k-th byte written is read back at the k-th address. -/
theorem readByte_writeBytes (bs : List Byte) :
    ∀ (s : State) (a k : Nat), k < bs.length → a + bs.length ≤ 0x1000 → s.MemWf →
      (s.writeBytes a bs).readByte (a + k) = bs.getD k 0 := by
  induction bs with
  | nil => intro s a k hk; simp at hk
  | cons x rest ih =>
    intro s a k hk ha h
    simp only [List.length_cons] at hk ha
    rw [State.writeBytes]
    cases k with
    | zero =>
      rw [readByte_writeBytes_other _ _ _ _ (by omega), Nat.add_zero, readByte_writeByte_same _ _ h]
      rfl
    | succ k =>
      have := ih (s.writeByte a x) (a + 1) k (by omega) (by omega) (MemWf_writeByte (by omega) x h)
      rw [show a + (k + 1) = a + 1 + k by omega, this]
      rfl

end Sys2Proof.Machine
end

