-- ==== Sys2Proof/Laws/Registers.lean ====
section
/-! SUPPORT. What the register operations do, said once: a read after a write, the result-then-flag write of R23, registers loaded one after another. -/

namespace Sys2Proof.Machine

theorem getV_setV (s : State) (x y : RegIdx) (b : Byte) :
    (s.setV x b).getV y = if x = y then b else s.getV y := by
  simp only [State.getV, State.setV, Vector.getElem_set, BitVec.toNat_inj]

@[simp] theorem getV_setV_same (s : State) (x : RegIdx) (b : Byte) : (s.setV x b).getV x = b := by
  simp [getV_setV]

theorem getV_setV_other (s : State) {x y : RegIdx} (b : Byte) (h : y ≠ x) : (s.setV x b).getV y = s.getV y := by
  simp [getV_setV, h.symm]

/-- A register reads only the register file. -/
theorem getV_congr {s t : State} (h : t.v = s.v) (r : RegIdx) : t.getV r = s.getV r := by
  simp only [State.getV, h]

@[simp] theorem getV_setI (s : State) (w : Word) (r : RegIdx) : (s.setI w).getV r = s.getV r := rfl
@[simp] theorem getV_setPc (s : State) (w : Word) (r : RegIdx) : (s.setPc w).getV r = s.getV r := rfl
@[simp] theorem getV_setDt (s : State) (b : Byte) (r : RegIdx) : (s.setDt b).getV r = s.getV r := rfl
@[simp] theorem getV_setSt (s : State) (b : Byte) (r : RegIdx) : (s.setSt b).getV r = s.getV r := rfl
@[simp] theorem getV_setDisplay (s : State) (d : Display) (r : RegIdx) : (s.setDisplay d).getV r = s.getV r := rfl
@[simp] theorem getV_setMode (s : State) (m : Mode) (r : RegIdx) : (s.setMode m).getV r = s.getV r := rfl
@[simp] theorem getV_raise (s : State) (e : FatalError) (r : RegIdx) : (s.raise e).getV r = s.getV r := rfl
@[simp] theorem getV_writeByte (s : State) (a : Nat) (x : Byte) (r : RegIdx) :
    (s.writeByte a x).getV r = s.getV r := rfl
@[simp] theorem getV_push (s : State) (w : Word) (r : RegIdx) : (s.push w).getV r = s.getV r := rfl
@[simp] theorem getV_drop (s : State) (r : RegIdx) : s.drop.getV r = s.getV r := rfl
@[simp] theorem getV_drawn (s : State) (r : RegIdx) : s.drawn.getV r = s.getV r := rfl
@[simp] theorem getV_advancePc (s : State) (r : RegIdx) : s.advancePc.getV r = s.getV r := rfl
@[simp] theorem getV_timerTick (s : State) (r : RegIdx) : s.timerTick.getV r = s.getV r := rfl
@[simp] theorem getV_setPhase (s : State) (p : Phase) (r : RegIdx) : (s.setPhase p).getV r = s.getV r := rfl
@[simp] theorem getV_hostTurn (s : State) (r : RegIdx) : s.hostTurn.getV r = s.getV r := rfl

/-! ### Result, then flag (R23) -/

/-- VF ends as the flag whatever x is; VX holds the result unless it is VF. -/
theorem getV_setResultFlag (s : State) (x y : RegIdx) (r : Byte) (f : Bool) :
    (s.setResultFlag x r f).getV y = if y = regVF then flagByte f else if y = x then r else s.getV y := by
  simp only [State.setResultFlag, getV_setV, eq_comm (a := y)]

/-- Only the register file is written. -/
theorem setResultFlag_eq (s : State) (x : RegIdx) (r : Byte) (f : Bool) :
    s.setResultFlag x r f = { s with v := (s.setResultFlag x r f).v } := rfl

theorem getV_setLogic (s : State) (x y : RegIdx) (r : Byte) :
    (s.setLogic x r).getV y =
      if s.params.vfResetOnLogic = true ∧ y = regVF then 0 else if y = x then r else s.getV y := by
  unfold State.setLogic
  split <;> simp_all [getV_setV, eq_comm (a := y)]

/-- Only the register file is written. -/
theorem setLogic_eq (s : State) (x : RegIdx) (r : Byte) :
    s.setLogic x r = { s with v := (s.setLogic x r).v } := by
  unfold State.setLogic
  split <;> rfl

/-! ### Registers loaded one after another -/

/-- Only the register file is written. -/
theorem setVs_eq (bs : List Byte) : ∀ (s : State) (x : Nat), s.setVs x bs = { s with v := (s.setVs x bs).v } := by
  induction bs with
  | nil => intro s x; rfl
  | cons b rest ih => intro s x; rw [State.setVs, ih]; rfl

/-- Register `y` holds byte `y - x` of the list where the list reaches it, and is unchanged elsewhere. -/
theorem getV_setVs (bs : List Byte) : ∀ (s : State) (x : Nat), x + bs.length ≤ 16 → ∀ y : RegIdx,
    (s.setVs x bs).getV y =
      if x ≤ y.toNat ∧ y.toNat < x + bs.length then bs.getD (y.toNat - x) 0 else s.getV y := by
  induction bs with
  | nil => intro s x _ y; simp [State.setVs]
  | cons b rest ih =>
    intro s x hx y
    simp only [List.length_cons] at hx
    rw [State.setVs, ih _ _ (by omega), getV_setV]
    have hxy : (BitVec.ofNat 4 x = y) ↔ x = y.toNat := by
      rw [← BitVec.toNat_inj, BitVec.toNat_ofNat, Nat.mod_eq_of_lt (by omega)]
    simp only [hxy, List.length_cons]
    rcases Nat.lt_trichotomy x y.toNat with h | h | h
    · have h1 : x + 1 ≤ y.toNat := h
      have h2 : y.toNat - x = (y.toNat - (x + 1)) + 1 := by omega
      simp only [h1, true_and, Nat.le_of_lt h, h2, List.getD_cons_succ, Nat.ne_of_lt h, if_false]
      congr 1
      simp only [eq_iff_iff]; omega
    · subst h
      simp
    · simp only [Nat.not_le.mpr h, false_and, if_false, Nat.ne_of_gt h]
      rw [if_neg (by omega)]

end Sys2Proof.Machine
end

