-- ==== Sys2Proof/Laws/Ops.lean ====
section
/-! SUPPORT. What each shared operation can do, said once, for proofs to cite instead of unfolding it. -/

namespace Sys2Proof.Machine

/-! ### PC and mode -/

/-- A skip writes PC alone: two more when the condition holds (R130). -/
theorem skipIf_eq (s : State) (c : Bool) : s.skipIf c = { s with pc := if c then s.pc + 2 else s.pc } := by
  cases c <;> rfl

/-- Halt entry writes the mode alone (R243). -/
theorem raise_eq (s : State) (e : FatalError) : s.raise e = { s with mode := .halted e } := rfl

@[simp] theorem isHalted_raise (s : State) (e : FatalError) : (s.raise e).isHalted = true := rfl

theorem isHalted_iff (s : State) : s.isHalted = true ↔ ∃ e, s.mode = .halted e := by
  unfold State.isHalted
  split <;> simp_all

/-! ### Range check (R53) -/

theorem rangeError_none {lo hi : Nat} : rangeError lo hi = none ↔ hi ≤ 0xFFF := by
  unfold rangeError
  split <;> simp <;> omega

theorem rangeError_some {lo hi a : Nat} : rangeError lo hi = some a ↔ 0xFFF < hi ∧ a = max lo 0x1000 := by
  unfold rangeError
  split <;> simp_all [eq_comm]

/-- In range, a checked access goes on. -/
theorem rangeChecked_in {i : Instr} {lo hi : Nat} {s t : State} (h : hi ≤ 0xFFF) :
    rangeChecked i lo hi s t = .next t := by
  simp [rangeChecked, rangeError_none.mpr h]

/-- Out of range, a checked access halts with the lowest offending address and writes the mode alone. -/
theorem rangeChecked_out {i : Instr} {lo hi : Nat} {s t : State} (h : 0xFFF < hi) :
    rangeChecked i lo hi s t =
      .next (s.raise (.addressOutOfRange (s.pc - 2) (some (encode i)) (max lo 0x1000))) := by
  simp [rangeChecked, rangeError_some.mpr ⟨h, rfl⟩, State.fetchAddr]

/-- A checked access answers one of two next states. -/
theorem rangeChecked_cases {i : Instr} {lo hi : Nat} {s t u : State} (h : rangeChecked i lo hi s t = .next u) :
    (hi ≤ 0xFFF ∧ u = t) ∨
      (0xFFF < hi ∧ u = s.raise (.addressOutOfRange (s.pc - 2) (some (encode i)) (max lo 0x1000))) := by
  rcases Nat.lt_or_ge 0xFFF hi with hi' | hi'
  · rw [rangeChecked_out hi'] at h; injection h with h; exact .inr ⟨hi', h.symm⟩
  · rw [rangeChecked_in hi'] at h; injection h with h; exact .inl ⟨hi', h.symm⟩

/-! ### Operands -/

/-- A value names a key exactly when it is at most 15, and then the key of that number (R220). -/
theorem keyIndex_eq (b : Byte) : keyIndex b = if b.toNat ≤ 15 then some (b.setWidth 4) else none := rfl

/-- The index step after a dump or load writes I alone (R184, R185). -/
theorem stepIndex_eq (s : State) (x : RegIdx) : s.stepIndex x = { s with i := (s.stepIndex x).i } := by
  unfold State.stepIndex
  split <;> rfl

theorem stepIndex_i (s : State) (x : RegIdx) :
    (s.stepIndex x).i =
      match s.params.indexQuirk with
      | .increment => BitVec.ofNat 16 (s.i.toNat + x.toNat + 1)
      | .unchanged => s.i := by
  unfold State.stepIndex
  split <;> simp_all

theorem regsUpTo_length (s : State) (x : RegIdx) : (s.regsUpTo x).length = x.toNat + 1 := by
  simp [State.regsUpTo]

theorem readBytes_length (s : State) (a n : Nat) : (s.readBytes a n).length = n := by
  simp [State.readBytes]

theorem readBytes_getD (s : State) (a n k : Nat) (h : k < n) : (s.readBytes a n).getD k 0 = s.readByte (a + k) := by
  simp [State.readBytes, List.getD_eq_getElem?_getD, h]

theorem regsUpTo_getD (s : State) (x : RegIdx) (k : Nat) (h : k ≤ x.toNat) :
    (s.regsUpTo x).getD k 0 = s.getV (BitVec.ofNat 4 k) := by
  simp [State.regsUpTo, List.getD_eq_getElem?_getD, Nat.lt_succ_of_le h]

/-! ### Outcomes -/

/-- A mapped answer is a next state exactly when the answer was one. -/
theorem mapNext_next {f : State → State} {r : Result} {t : State} :
    mapNext f r = .next t ↔ ∃ u, r = .next u ∧ t = f u := by
  cases r <;> simp [mapNext, eq_comm]

end Sys2Proof.Machine
end

