-- ==== Sys2Proof/Laws/Scheduler.lean ====
section
/-! SUPPORT. What the scheduler's operations do, said once: which fields each of them writes, and everything a cycle and a step can be. -/

namespace Sys2Proof.Machine

theorem timerTick_eq (s : State) : s.timerTick = { s with dt := tickDown s.dt, st := tickDown s.st } := rfl

/-- A tick takes one off a timer above 0 (R109). -/
theorem tickDown_toNat (b : Byte) : (tickDown b).toNat = b.toNat - 1 := by
  unfold tickDown
  split
  · next h => simp [h]
  · next h =>
    have h1 : (1 : Byte).toNat ≤ b.toNat := by
      rcases Nat.eq_zero_or_pos b.toNat with h0 | h0
      · exact absurd (BitVec.toNat_inj.mp h0) h
      · exact h0
    rw [BitVec.toNat_sub_of_le h1]
    rfl

/-- Opening a frame writes the credit, the phase and perhaps the timers (R107). -/
theorem openFrame_eq (s : State) : s.openFrame =
    { s with credit := (s.credit + s.params.clockHz) % 60, phase := .inFrame s.frameCycles,
             dt := s.openFrame.dt, st := s.openFrame.st } := by
  unfold State.openFrame
  split <;> rfl

/-- Closing a frame counts a redraw signal, writes the phase and perhaps ticks the timers (R107, R110). -/
theorem closeFrame_eq (s : State) : s.closeFrame =
    { s with redraws := s.redraws + 1, phase := .between, dt := s.closeFrame.dt, st := s.closeFrame.st } := by
  unfold State.closeFrame
  split <;> rfl

@[simp] theorem openFrame_phase (s : State) : s.openFrame.phase = .inFrame s.frameCycles := by rw [openFrame_eq]
@[simp] theorem openFrame_credit (s : State) : s.openFrame.credit = (s.credit + s.params.clockHz) % 60 := by
  rw [openFrame_eq]
@[simp] theorem openFrame_params (s : State) : s.openFrame.params = s.params := by rw [openFrame_eq]
@[simp] theorem openFrame_mode (s : State) : s.openFrame.mode = s.mode := by rw [openFrame_eq]
@[simp] theorem openFrame_turns (s : State) : s.openFrame.turns = s.turns := by rw [openFrame_eq]
@[simp] theorem openFrame_redraws (s : State) : s.openFrame.redraws = s.redraws := by rw [openFrame_eq]
@[simp] theorem closeFrame_phase (s : State) : s.closeFrame.phase = .between := by rw [closeFrame_eq]
@[simp] theorem closeFrame_credit (s : State) : s.closeFrame.credit = s.credit := by rw [closeFrame_eq]
@[simp] theorem closeFrame_params (s : State) : s.closeFrame.params = s.params := by rw [closeFrame_eq]
@[simp] theorem closeFrame_mode (s : State) : s.closeFrame.mode = s.mode := by rw [closeFrame_eq]
@[simp] theorem closeFrame_turns (s : State) : s.closeFrame.turns = s.turns := by rw [closeFrame_eq]
@[simp] theorem closeFrame_redraws (s : State) : s.closeFrame.redraws = s.redraws + 1 := by rw [closeFrame_eq]

@[simp] theorem frameCycles_hostTurn (s : State) : s.hostTurn.frameCycles = s.frameCycles := rfl
@[simp] theorem isHalted_hostTurn (s : State) : s.hostTurn.isHalted = s.isHalted := rfl
@[simp] theorem isHalted_setPhase (s : State) (p : Phase) : (s.setPhase p).isHalted = s.isHalted := rfl
@[simp] theorem isHalted_openFrame (s : State) : s.openFrame.isHalted = s.isHalted := by
  simp only [State.isHalted, openFrame_mode]
@[simp] theorem isHalted_closeFrame (s : State) : s.closeFrame.isHalted = s.isHalted := by
  simp only [State.isHalted, closeFrame_mode]

/-- Everything a step that answers a next state can be: the host's turn, then nothing (halted), the opening of a frame, its closing, or a cycle. -/
theorem step_cases {s t : State} (h : step s = .next t) :
    s.params.valid = true ∧
      ((s.isHalted = true ∧ t = s.hostTurn) ∨
        (s.isHalted = false ∧
          ((s.phase = .between ∧ t = s.hostTurn.openFrame) ∨
            (s.phase = .inFrame 0 ∧ t = s.hostTurn.closeFrame) ∨
            ∃ n, s.phase = .inFrame (n + 1) ∧ cycle (s.hostTurn.setPhase (.inFrame n)) = .next t))) := by
  unfold step scheduledStep at h
  split at h
  · next hv =>
    refine ⟨hv, ?_⟩
    unfold State.proceed at h
    rw [isHalted_hostTurn, hostTurn_phase] at h
    split at h
    · next hh => injection h with h; exact .inl ⟨hh, h.symm⟩
    · next hh =>
      refine .inr ⟨by simpa using hh, ?_⟩
      split at h
      · next hp => injection h with h; exact .inl ⟨hp, h.symm⟩
      · next hp => injection h with h; exact .inr (.inl ⟨hp, h.symm⟩)
      · next n hp => exact .inr (.inr ⟨n, hp, h⟩)
  · cases h

/-- Everything a cycle that answers a next state can be (R100 to R106). -/
theorem cycle_cases {s t : State} (h : cycle s = .next t) :
    (∃ e, s.mode = .halted e ∧ t = s) ∨
    (∃ x snap, s.mode = .waiting x snap ∧ t = s.waitCycle x snap) ∨
    (s.mode = .running ∧
      ((∃ e, s.fetchError = some e ∧ t = s.raise e) ∨
        (s.fetchError = none ∧
          ((∃ e, decode s.fetchWord = .error e ∧ t = s.advancePc.raise (.unknownOpcode s.pc s.fetchWord)) ∨
            ∃ i, decode s.fetchWord = .ok i ∧ exec i s.advancePc = .next t)))) := by
  unfold cycle at h
  split at h
  · next hm =>
    refine .inr (.inr ⟨hm, ?_⟩)
    unfold runCycle at h
    split at h
    · next e he => injection h with h; exact .inl ⟨e, he, h.symm⟩
    · next he =>
      refine .inr ⟨he, ?_⟩
      split at h
      · next e hd => injection h with h; exact .inl ⟨e, hd, h.symm⟩
      · next i hd => exact .inr ⟨i, hd, h⟩
  · next x snap hm => injection h with h; exact .inr (.inl ⟨x, snap, hm, h.symm⟩)
  · next e hm => injection h with h; exact .inl ⟨e, hm, h.symm⟩

/-- A waiting cycle refreshes the snapshot when no key is newly down (R105). -/
theorem waitCycle_none {s : State} {x : RegIdx} {snap : Keys} (h : s.newlyPressed snap = []) :
    s.waitCycle x snap = s.setMode (.waiting x s.keys) := by
  simp [State.waitCycle, h]

/-- Otherwise some member of the set goes to V[x] and the mode becomes Running (R105). -/
theorem waitCycle_some {s : State} {x : RegIdx} {snap : Keys} (h : s.newlyPressed snap ≠ []) :
    ∃ k ∈ s.newlyPressed snap, s.waitCycle x snap = (s.drawn.setV x (k.setWidth 8)).setMode .running := by
  obtain ⟨k, rest, hk⟩ := List.exists_cons_of_ne_nil h
  refine ⟨s.keyChoice (k :: rest), ?_, by simp [State.waitCycle, hk]⟩
  have hlt : Config.keyPick s.draws % (k :: rest).length < (k :: rest).length := Nat.mod_lt _ (by simp)
  rw [hk, State.keyChoice, List.getD_eq_getElem?_getD, List.getElem?_eq_getElem hlt, Option.getD_some]
  exact List.getElem_mem hlt

theorem mem_newlyPressed {s : State} {snap : Keys} {k : RegIdx} :
    k ∈ s.newlyPressed snap ↔ s.keyDown k = true ∧ snap[k.toNat]'(k.isLt) = false := by
  have hall : ∀ k : RegIdx, k ∈ allKeys := by decide
  simp [State.newlyPressed, hall k]

end Sys2Proof.Machine
end

