-- ==== Sys2Proof/Laws/Exec.lean ====
section
/-! SUPPORT. Everything an instruction can do, said once: it answers a next state always, and that state is either the halt of a fatal error or the instruction's own effect, which names the fields it writes. -/

namespace Sys2Proof.Machine

/-- The effect of an instruction that raises no error: which fields it writes. -/
def ExecEffect : Instr → State → State → Prop
  | .cls, s, t => t = { s with display := t.display }
  | .ret, s, t => s.sp ≠ 0 ∧ t = { s with sp := s.sp - 1, pc := s.top }
  | .jp nnn, s, t => t = { s with pc := zextAddr nnn }
  | .call nnn, s, t => s.sp ≠ s.params.stackDepth ∧
      t = { s with sp := s.sp + 1, pc := zextAddr nnn, stack := s.stack.set s.sp s.pc }
  | .seImm _ _, s, t => t = { s with pc := t.pc } ∧ (t.pc = s.pc ∨ t.pc = s.pc + 2)
  | .sneImm _ _, s, t => t = { s with pc := t.pc } ∧ (t.pc = s.pc ∨ t.pc = s.pc + 2)
  | .seReg _ _, s, t => t = { s with pc := t.pc } ∧ (t.pc = s.pc ∨ t.pc = s.pc + 2)
  | .ldImm x _, s, t => t = { s with v := t.v } ∧ RegsKept [x] s t
  | .addImm x _, s, t => t = { s with v := t.v } ∧ RegsKept [x] s t
  | .ldReg x _, s, t => t = { s with v := t.v } ∧ RegsKept [x] s t
  | .orReg x _, s, t => t = { s with v := t.v } ∧ RegsKept [x, 0xF] s t
  | .andReg x _, s, t => t = { s with v := t.v } ∧ RegsKept [x, 0xF] s t
  | .xorReg x _, s, t => t = { s with v := t.v } ∧ RegsKept [x, 0xF] s t
  | .addReg x _, s, t => t = { s with v := t.v } ∧ RegsKept [x, 0xF] s t
  | .subReg x _, s, t => t = { s with v := t.v } ∧ RegsKept [x, 0xF] s t
  | .shr x _, s, t => t = { s with v := t.v } ∧ RegsKept [x, 0xF] s t
  | .subnReg x _, s, t => t = { s with v := t.v } ∧ RegsKept [x, 0xF] s t
  | .shl x _, s, t => t = { s with v := t.v } ∧ RegsKept [x, 0xF] s t
  | .sneReg _ _, s, t => t = { s with pc := t.pc } ∧ (t.pc = s.pc ∨ t.pc = s.pc + 2)
  | .ldI _, s, t => t = { s with i := t.i }
  | .jpV0 nnn, s, t => t = { s with pc := zextAddr nnn + zextByte (s.getV 0) }
  | .rnd x _, s, t => t = { s with v := t.v, draws := s.draws + 1 } ∧ RegsKept [x] s t
  | .drw _ _ _, s, t => t = { s with display := t.display, v := t.v } ∧ RegsKept [0xF] s t
  | .skp _, s, t => t = { s with pc := t.pc } ∧ (t.pc = s.pc ∨ t.pc = s.pc + 2)
  | .sknp _, s, t => t = { s with pc := t.pc } ∧ (t.pc = s.pc ∨ t.pc = s.pc + 2)
  | .ldVxDt x, s, t => t = { s with v := t.v } ∧ RegsKept [x] s t
  | .ldVxK x, s, t => t = { s with mode := .waiting x s.keys }
  | .ldDtVx _, s, t => t = { s with dt := t.dt }
  | .ldStVx _, s, t => t = { s with st := t.st }
  | .addI _, s, t => t = { s with i := t.i }
  | .ldF _, s, t => t = { s with i := t.i }
  | .ldB _, s, t => t = { s with mem := t.mem } ∧ (s.MemWf → t.MemWf)
  | .dump _, s, t => t = { s with mem := t.mem, i := t.i } ∧ (s.params.indexQuirk = .unchanged → t.i = s.i) ∧ (s.MemWf → t.MemWf)
  | .load x, s, t => t = { s with v := t.v, i := t.i } ∧ (s.params.indexQuirk = .unchanged → t.i = s.i) ∧
      RegsKept (writtenRegs (.load x)) s t

theorem skipIf_effect (s : State) (c : Bool) :
    s.skipIf c = { s with pc := (s.skipIf c).pc } ∧ ((s.skipIf c).pc = s.pc ∨ (s.skipIf c).pc = s.pc + 2) := by
  cases c
  · exact ⟨rfl, .inl rfl⟩
  · exact ⟨rfl, .inr rfl⟩

theorem setV_effect (s : State) (x : RegIdx) (b : Byte) :
    s.setV x b = { s with v := (s.setV x b).v } ∧ RegsKept [x] s (s.setV x b) :=
  ⟨rfl, fun _ hr => getV_setV_other _ _ (by simpa using hr)⟩

theorem setResultFlag_effect (s : State) (x : RegIdx) (r : Byte) (f : Bool) :
    s.setResultFlag x r f = { s with v := (s.setResultFlag x r f).v } ∧
      RegsKept [x, 0xF] s (s.setResultFlag x r f) := by
  refine ⟨rfl, fun y hy => ?_⟩
  simp only [List.mem_cons, List.not_mem_nil, or_false, not_or] at hy
  rw [getV_setResultFlag, if_neg (by simpa [regVF] using hy.2), if_neg hy.1]

theorem setLogic_effect (s : State) (x : RegIdx) (r : Byte) :
    s.setLogic x r = { s with v := (s.setLogic x r).v } ∧ RegsKept [x, 0xF] s (s.setLogic x r) := by
  refine ⟨setLogic_eq _ _ _, fun y hy => ?_⟩
  simp only [List.mem_cons, List.not_mem_nil, or_false, not_or] at hy
  rw [getV_setLogic, if_neg (fun h => hy.2 h.2), if_neg hy.1]

/-- What an instruction can answer: the halt of an error whose record carries the fetch address and the instruction's word (R242, R243), or its own effect. -/
theorem exec_cases (i : Instr) (s t : State) (h : exec i s = .next t) :
    (∃ e : FatalError, t = s.raise e ∧ e.pc? = some (s.pc - 2) ∧ e.opcode? = some (encode i)) ∨
      ExecEffect i s t := by
  cases i
  case ret =>
    change execRet s = _ at h; unfold execRet at h; split at h <;> cases h
    · exact .inl ⟨_, rfl, rfl, rfl⟩
    · exact .inr ⟨by assumption, rfl⟩
  case call =>
    change execCall _ s = _ at h; unfold execCall at h; split at h <;> cases h
    · exact .inl ⟨_, rfl, rfl, rfl⟩
    · exact .inr ⟨by assumption, rfl⟩
  case cls => cases h; exact .inr rfl
  case jp => cases h; exact .inr rfl
  case jpV0 => cases h; exact .inr rfl
  case seImm => cases h; exact .inr (skipIf_effect _ _)
  case sneImm => cases h; exact .inr (skipIf_effect _ _)
  case seReg => cases h; exact .inr (skipIf_effect _ _)
  case sneReg => cases h; exact .inr (skipIf_effect _ _)
  case skp x => 
    change skipOnKey (.skp x) x true s = _ at h; unfold skipOnKey at h; split at h <;> cases h
    · exact .inl ⟨_, rfl, rfl, rfl⟩
    · exact .inr (skipIf_effect _ _)
  case sknp x => 
    change skipOnKey (.sknp x) x false s = _ at h; unfold skipOnKey at h; split at h <;> cases h
    · exact .inl ⟨_, rfl, rfl, rfl⟩
    · exact .inr (skipIf_effect _ _)
  case ldImm => cases h; exact .inr (setV_effect _ _ _)
  case addImm => cases h; exact .inr (setV_effect _ _ _)
  case ldReg => cases h; exact .inr (setV_effect _ _ _)
  case ldVxDt => cases h; exact .inr (setV_effect _ _ _)
  case rnd => cases h; exact .inr ⟨rfl, (setV_effect _ _ _).2⟩
  case addReg => cases h; exact .inr (setResultFlag_effect _ _ _ _)
  case subReg => cases h; exact .inr (setResultFlag_effect _ _ _ _)
  case subnReg => cases h; exact .inr (setResultFlag_effect _ _ _ _)
  case shr => cases h; exact .inr (setResultFlag_effect _ _ _ _)
  case shl => cases h; exact .inr (setResultFlag_effect _ _ _ _)
  case orReg => cases h; exact .inr (setLogic_effect _ _ _)
  case andReg => cases h; exact .inr (setLogic_effect _ _ _)
  case xorReg => cases h; exact .inr (setLogic_effect _ _ _)
  case ldI => cases h; exact .inr rfl
  case addI => cases h; exact .inr rfl
  case ldF => cases h; exact .inr rfl
  case ldDtVx => cases h; exact .inr rfl
  case ldStVx => cases h; exact .inr rfl
  case ldVxK => cases h; exact .inr rfl
  case ldB x =>
    rcases rangeChecked_cases h with ⟨h1, rfl⟩ | ⟨_, rfl⟩
    · right
      refine ⟨writeBytes_eq _ _ _, fun hw => MemWf_writeBytes _ ?_ hw⟩
      simp [bcdDigits]; omega
    · exact .inl ⟨_, rfl, rfl, rfl⟩
  case dump x =>
    rcases rangeChecked_cases h with ⟨h1, rfl⟩ | ⟨_, rfl⟩
    · right
      refine ⟨?_, ?_, ?_⟩
      · rw [stepIndex_eq, writeBytes_eq]
      · intro hq; rw [stepIndex_i, writeBytes_eq]; simp only [hq]
      · intro hw; rw [stepIndex_eq]; refine MemWf_writeBytes _ ?_ hw
        rw [regsUpTo_length]; omega
    · exact .inl ⟨_, rfl, rfl, rfl⟩
  case load x =>
    rcases rangeChecked_cases h with ⟨h1, rfl⟩ | ⟨_, rfl⟩
    · right
      refine ⟨?_, ?_, ?_⟩
      · rw [stepIndex_eq, setVs_eq]
      · intro hq; rw [stepIndex_i, setVs_eq]; simp only [hq]
      · intro r hr
        rw [stepIndex_eq]
        refine (getV_setVs (s.readBytes s.indexAddr (x.toNat + 1)) s 0 (by rw [readBytes_length]; have := x.isLt; omega) r).trans ?_
        rw [if_neg]
        rw [readBytes_length]; simp [writtenRegs] at hr ⊢
        by_contra hc
        exact hr r.toNat (by omega) (by simp)
    · exact .inl ⟨_, rfl, rfl, rfl⟩
  case drw x y n =>
    change execDrw x y n s = _ at h
    unfold execDrw at h
    have key : ∀ u, u = s.drawnSprite x y n → u = { s with display := u.display, v := u.v } ∧ RegsKept [0xF] s u := by
      rintro u rfl; exact ⟨rfl, fun r hr => getV_setV_other _ _ (by simpa [regVF] using hr)⟩
    split at h
    · cases h; exact .inr (key _ rfl)
    · rcases rangeChecked_cases h with ⟨h1, h2⟩ | ⟨_, rfl⟩
      · exact .inr (key _ h2)
      · exact .inl ⟨_, rfl, rfl, rfl⟩

/-- Every instruction answers a next state. -/
theorem exec_next (i : Instr) (s : State) : ∃ t, exec i s = .next t := by
  have rc : ∀ j lo hi u, ∃ t, rangeChecked j lo hi s u = .next t := by
    intro j lo hi u; unfold rangeChecked; split <;> exact ⟨_, rfl⟩
  have sk : ∀ j x w, ∃ t, skipOnKey j x w s = .next t := by
    intro j lo hi; unfold skipOnKey; split <;> exact ⟨_, rfl⟩
  cases i
  case ret => show ∃ t, execRet s = _; unfold execRet; split <;> exact ⟨_, rfl⟩
  case call => show ∃ t, execCall _ s = _; unfold execCall; split <;> exact ⟨_, rfl⟩
  case drw => show ∃ t, execDrw _ _ _ s = _; unfold execDrw; split; exact ⟨_, rfl⟩; exact rc _ _ _ _
  case ldB => exact rc _ _ _ _
  case dump => exact rc _ _ _ _
  case load => exact rc _ _ _ _
  case skp => exact sk _ _ _
  case sknp => exact sk _ _ _
  all_goals exact ⟨_, rfl⟩

end Sys2Proof.Machine
end

