-- ==== Sys2Proof/Laws/PerInstr.lean ====
section
/-! SUPPORT. One lemma for each constructor of Instr: the instruction's encoding matches its own row of the opcode map (R74). -/

namespace Sys2Proof.Laws.OwnRow

/-- The word of the instruction matches the instruction's row: `(w & mask) = match` (R74). -/
def Statement (i : Instr) : Prop := i.wellFormedAs (encode i) = true

theorem cls : Statement .cls := by unfold Statement; decide
theorem ret : Statement .ret := by unfold Statement; decide
theorem jp (nnn : Addr) : Statement (.jp nnn) := admits_packNNN 0x1 nnn
theorem call (nnn : Addr) : Statement (.call nnn) := admits_packNNN 0x2 nnn
theorem seImm (x : RegIdx) (nn : Byte) : Statement (.seImm x nn) := admits_packNNN 0x3 (x ++ nn)
theorem sneImm (x : RegIdx) (nn : Byte) : Statement (.sneImm x nn) := admits_packNNN 0x4 (x ++ nn)
theorem seReg (x : RegIdx) (y : RegIdx) : Statement (.seReg x y) := admits_packXYN 0x5 x y 0x0
theorem ldImm (x : RegIdx) (nn : Byte) : Statement (.ldImm x nn) := admits_packNNN 0x6 (x ++ nn)
theorem addImm (x : RegIdx) (nn : Byte) : Statement (.addImm x nn) := admits_packNNN 0x7 (x ++ nn)
theorem ldReg (x : RegIdx) (y : RegIdx) : Statement (.ldReg x y) := admits_packXYN 0x8 x y 0x0
theorem orReg (x : RegIdx) (y : RegIdx) : Statement (.orReg x y) := admits_packXYN 0x8 x y 0x1
theorem andReg (x : RegIdx) (y : RegIdx) : Statement (.andReg x y) := admits_packXYN 0x8 x y 0x2
theorem xorReg (x : RegIdx) (y : RegIdx) : Statement (.xorReg x y) := admits_packXYN 0x8 x y 0x3
theorem addReg (x : RegIdx) (y : RegIdx) : Statement (.addReg x y) := admits_packXYN 0x8 x y 0x4
theorem subReg (x : RegIdx) (y : RegIdx) : Statement (.subReg x y) := admits_packXYN 0x8 x y 0x5
theorem shr (x : RegIdx) (y : RegIdx) : Statement (.shr x y) := admits_packXYN 0x8 x y 0x6
theorem subnReg (x : RegIdx) (y : RegIdx) : Statement (.subnReg x y) := admits_packXYN 0x8 x y 0x7
theorem shl (x : RegIdx) (y : RegIdx) : Statement (.shl x y) := admits_packXYN 0x8 x y 0xE
theorem sneReg (x : RegIdx) (y : RegIdx) : Statement (.sneReg x y) := admits_packXYN 0x9 x y 0x0
theorem ldI (nnn : Addr) : Statement (.ldI nnn) := admits_packNNN 0xA nnn
theorem jpV0 (nnn : Addr) : Statement (.jpV0 nnn) := admits_packNNN 0xB nnn
theorem rnd (x : RegIdx) (nn : Byte) : Statement (.rnd x nn) := admits_packNNN 0xC (x ++ nn)
theorem drw (x : RegIdx) (y : RegIdx) (n : Nibble) : Statement (.drw x y n) := admits_packNNN 0xD (x ++ (y ++ n))
theorem skp (x : RegIdx) : Statement (.skp x) := admits_packXNN 0xE x 0x9E
theorem sknp (x : RegIdx) : Statement (.sknp x) := admits_packXNN 0xE x 0xA1
theorem ldVxDt (x : RegIdx) : Statement (.ldVxDt x) := admits_packXNN 0xF x 0x07
theorem ldVxK (x : RegIdx) : Statement (.ldVxK x) := admits_packXNN 0xF x 0x0A
theorem ldDtVx (x : RegIdx) : Statement (.ldDtVx x) := admits_packXNN 0xF x 0x15
theorem ldStVx (x : RegIdx) : Statement (.ldStVx x) := admits_packXNN 0xF x 0x18
theorem addI (x : RegIdx) : Statement (.addI x) := admits_packXNN 0xF x 0x1E
theorem ldF (x : RegIdx) : Statement (.ldF x) := admits_packXNN 0xF x 0x29
theorem ldB (x : RegIdx) : Statement (.ldB x) := admits_packXNN 0xF x 0x33
theorem dump (x : RegIdx) : Statement (.dump x) := admits_packXNN 0xF x 0x55
theorem load (x : RegIdx) : Statement (.load x) := admits_packXNN 0xF x 0x65

end Sys2Proof.Laws.OwnRow
end

