-- ==== Sys2Proof/Tests/Slice0.lean ====
section
/-! SUPPORT. The model's own tests. Expected results come from the encodings of 41_control_flow.md to 45_timers_input.md and from 95_test_vectors.md; each group names its source. The last part gives, for each statement with hypotheses, a named witness that meets them. -/

namespace Sys2Proof.Tests

open Sys2Proof Sys2Proof.Machine

/-! ### Decoding: words written out from the encoding lines (R74, 95_test_vectors.md 2.1 and 2.3 to 2.7) -/

theorem test_decode_control_flow :
    decode 0x00EE = .ok .ret ∧ decode 0x1ABC = .ok (.jp 0xABC) ∧ decode 0x2400 = .ok (.call 0x400) ∧
    decode 0x3342 = .ok (.seImm 3 0x42) ∧ decode 0x4343 = .ok (.sneImm 3 0x43) ∧ decode 0x5120 = .ok (.seReg 1 2) ∧
    decode 0x9120 = .ok (.sneReg 1 2) ∧ decode 0xB123 = .ok (.jpV0 0x123) := by decide

theorem test_decode_alu :
    decode 0x6A3C = .ok (.ldImm 0xA 0x3C) ∧ decode 0x7001 = .ok (.addImm 0 0x01) ∧ decode 0x8120 = .ok (.ldReg 1 2) ∧
    decode 0x8121 = .ok (.orReg 1 2) ∧ decode 0x8122 = .ok (.andReg 1 2) ∧ decode 0x8123 = .ok (.xorReg 1 2) ∧
    decode 0x81F4 = .ok (.addReg 1 0xF) ∧ decode 0x8F15 = .ok (.subReg 0xF 1) ∧ decode 0x8AB6 = .ok (.shr 0xA 0xB) ∧
    decode 0x8127 = .ok (.subnReg 1 2) ∧ decode 0x8ABE = .ok (.shl 0xA 0xB) ∧ decode 0xC10F = .ok (.rnd 1 0x0F) := by
  decide

theorem test_decode_index_memory :
    decode 0xA123 = .ok (.ldI 0x123) ∧ decode 0xF21E = .ok (.addI 2) ∧ decode 0xF029 = .ok (.ldF 0) ∧
    decode 0xF033 = .ok (.ldB 0) ∧ decode 0xF255 = .ok (.dump 2) ∧ decode 0xFF65 = .ok (.load 0xF) := by decide

theorem test_decode_display_timers_input :
    decode 0x00E0 = .ok .cls ∧ decode 0xD12F = .ok (.drw 1 2 0xF) ∧ decode 0xE19E = .ok (.skp 1) ∧
    decode 0xE1A1 = .ok (.sknp 1) ∧ decode 0xF107 = .ok (.ldVxDt 1) ∧ decode 0xF50A = .ok (.ldVxK 5) ∧
    decode 0xF315 = .ok (.ldDtVx 3) ∧ decode 0xF318 = .ok (.ldStVx 3) := by decide

/-- The bytes of a word are big-endian (R54), one word is taken and the rest given back; a lone byte is no instruction. -/
theorem test_decode_bytes :
    decodeBytes [0x8A, 0xB6, 0x12] = .ok (.shr 0xA 0xB, [0x12]) ∧ decodeBytes [0x8A] = .error .truncated ∧
    decodeBytes [] = .error .truncated ∧ encodeBytes (.shr 0xA 0xB) = [0x8A, 0xB6] := by decide

/-! ### Well-formedness: one refused word or more for each clause of R76 -/

theorem test_illegal_machine_space :
    [0x0000, 0x00E1, 0x00FE, 0x0123].all (fun w => !wellFormedWord w) = true ∧
    decode 0x0000 = .error (.machineSpace 0x0000) := by decide

theorem test_illegal_skip_nibble :
    [0x5121, 0x912F, 0x500F, 0x9001].all (fun w => !wellFormedWord w) = true ∧
    decode 0x5121 = .error (.skipNibble 0x5121) := by decide

theorem test_illegal_alu_nibble :
    [0x8AB8, 0x8AB9, 0x8ABA, 0x8ABB, 0x8ABC, 0x8ABD, 0x8ABF].all (fun w => !wellFormedWord w) = true ∧
    decode 0x8ABF = .error (.aluNibble 0x8ABF) := by decide

theorem test_illegal_key_byte :
    [0xE19F, 0xE1A2, 0xE000].all (fun w => !wellFormedWord w) = true ∧
    decode 0xE19F = .error (.keyByte 0xE19F) := by decide

theorem test_illegal_misc_byte :
    [0xF000, 0xF130, 0xF175, 0xF185].all (fun w => !wellFormedWord w) = true ∧
    decode 0xF130 = .error (.miscByte 0xF130) := by decide

theorem test_well_formed_words :
    [0x00E0, 0x00EE, 0x5120, 0x8ABE, 0xE19E, 0xFF65].all (fun w => wellFormedWord w) = true ∧
    Instr.wellFormedAs (.seReg 1 2) 0x5120 = true ∧ Instr.wellFormedAs (.seReg 1 2) 0x5121 = false := by decide

/-! ### One step on a small state (95_test_vectors.md 2.2 to 2.8) -/

/-- The word `w` at PC, stepped once: the answer is a next state that passes `p`. -/
def after (s : State) (w : Nat) (p : State → Bool) : Bool :=
  match step (s.withFetchWord 16 w) with
  | .next t => p t
  | _ => false

/-- The reset state with some registers set. -/
def regs (l : List (RegIdx × Byte)) : State := l.foldl (fun s c => s.setV c.1 c.2) State.reset

/-- The reset state under other parameters. -/
def under (p : Params) (l : List (RegIdx × Byte)) : State := { regs l with params := p }

/-- The word `w` executed at PC alone, without the host's turn before it, so that the keys are those of `s`. -/
def executed (s : State) (w : Word) (p : State → Bool) : Bool :=
  match decode w with
  | .ok i =>
    match exec i s.advancePc with
    | .next t => p t
    | _ => false
  | .error _ => false

/-- The next step of `s`, whatever it is. -/
def stepped (s : State) (p : State → Bool) : Bool :=
  match step s with
  | .next t => p t
  | _ => false

/-- The machine halted on `e`. -/
def haltedOn (t : State) (e : FatalError) : Bool := decide (t.mode = .halted e)

theorem test_fetch_at_top :
    after { State.reset with pc := 0xFFE } 0x6001 (fun t => t.getV 0 == 1 && t.pc == 0x1000) = true := by decide

/-- An odd PC fetches under MISALIGNED_PC = allow. -/
theorem test_fetch_odd :
    after { State.reset with pc := 0x201 } 0x6007 (fun t => t.getV 0 == 7 && t.pc == 0x203) = true := by decide

/-- An unknown word halts with PC past it (2.1). -/
theorem test_unknown_word :
    after State.reset 0x0000 (fun t => haltedOn t (.unknownOpcode 0x200 0x0000) && t.pc == 0x202) = true := by decide

/-- Fetch errors leave PC; the range is checked before the alignment. -/
theorem test_fetch_errors :
    cycle { State.reset with pc := 0xFFF, params := { defaultParams with misalignedPc := .fault } } =
      .next { State.reset with pc := 0xFFF, mode := .halted (.addressOutOfRange 0xFFF none 0x1000),
                               params := { defaultParams with misalignedPc := .fault } } ∧
    cycle { State.reset with pc := 0x201, params := { defaultParams with misalignedPc := .fault } } =
      .next { State.reset with pc := 0x201, mode := .halted (.misalignedPC 0x201),
                               params := { defaultParams with misalignedPc := .fault } } := ⟨rfl, rfl⟩

theorem test_jp : after State.reset 0x1ABC (fun t => t.pc == 0xABC) = true ∧
    after State.reset 0x1201 (fun t => t.pc == 0x201) = true := by decide

theorem test_call : after { State.reset with sp := 15, pc := 0x300 } 0x2400
    (fun t => t.sp == 16 && t.pc == 0x400 && t.stack.getD 15 0 == 0x302 && t.stack.getD 14 1 == 0) = true := by decide

theorem test_call_overflow : after { State.reset with sp := 16 } 0x2400
    (fun t => haltedOn t (.stackOverflow 0x200 0x2400) && t.sp == 16 && t.pc == 0x202) = true := by decide

theorem test_ret : after { State.reset with sp := 1, stack := State.reset.stack.set 0 0x206 } 0x00EE
    (fun t => t.sp == 0 && t.pc == 0x206 && t.stack.getD 0 0 == 0x206) = true := by decide

theorem test_ret_underflow : after State.reset 0x00EE
    (fun t => haltedOn t (.stackUnderflow 0x200 0x00EE) && t.pc == 0x202) = true := by decide

/-- The jump by V0 neither wraps nor masks. -/
theorem test_jpV0 : after (regs [(0, 0x10)]) 0xB300 (fun t => t.pc == 0x310) = true ∧
    after (regs [(0, 0xFF)]) 0xBFFF (fun t => t.pc == 0x10FE) = true := by decide

theorem test_seImm : after (regs [(3, 0x42)]) 0x3342 (fun t => t.pc == 0x204) = true ∧
    after (regs [(3, 0x42)]) 0x3343 (fun t => t.pc == 0x202) = true := by decide

theorem test_sneImm : after (regs [(3, 0x42)]) 0x4342 (fun t => t.pc == 0x202) = true ∧
    after (regs [(3, 0x42)]) 0x4343 (fun t => t.pc == 0x204) = true := by decide

theorem test_seReg : after (regs [(1, 0x99), (2, 0x99)]) 0x5120 (fun t => t.pc == 0x204) = true ∧
    after (regs [(1, 0x99), (2, 0x98)]) 0x5120 (fun t => t.pc == 0x202) = true := by decide

theorem test_sneReg : after (regs [(1, 0x99), (2, 0x98)]) 0x9120 (fun t => t.pc == 0x204) = true ∧
    after (regs [(1, 0x99)]) 0x9110 (fun t => t.pc == 0x202) = true := by decide

theorem test_ldImm : after State.reset 0x6A3C (fun t => t.getV 0xA == 0x3C && t.pc == 0x202) = true := by decide

theorem test_addImm : after (regs [(0, 0xFF), (0xF, 0x55)]) 0x7001 (fun t => t.getV 0 == 0 && t.getV 0xF == 0x55) = true ∧
    after (regs [(0xF, 1)]) 0x7FFF (fun t => t.getV 0xF == 0) = true := by decide

theorem test_ldReg : after (regs [(2, 0x7E)]) 0x8120 (fun t => t.getV 1 == 0x7E && t.getV 2 == 0x7E) = true := by decide

theorem test_orReg : after (regs [(1, 0xF0), (2, 0x0F), (0xF, 7)]) 0x8121
    (fun t => t.getV 1 == 0xFF && t.getV 0xF == 7) = true ∧
    after (under { defaultParams with vfResetOnLogic := true } [(1, 0xF0), (2, 0x0F), (0xF, 7)]) 0x8121
    (fun t => t.getV 1 == 0xFF && t.getV 0xF == 0) = true := by decide

theorem test_andReg : after (regs [(1, 0xF3), (2, 0x3F)]) 0x8122 (fun t => t.getV 1 == 0x33) = true := by decide

theorem test_xorReg : after (regs [(1, 0xFF), (2, 0x0F)]) 0x8123 (fun t => t.getV 1 == 0xF0) = true ∧
    after (regs [(1, 0x5A)]) 0x8113 (fun t => t.getV 1 == 0) = true := by decide

theorem test_addReg : after (regs [(1, 0xFF), (2, 1)]) 0x8124 (fun t => t.getV 1 == 0 && t.getV 0xF == 1) = true ∧
    after (regs [(1, 0x7F), (2, 0x80)]) 0x8124 (fun t => t.getV 1 == 0xFF && t.getV 0xF == 0) = true := by decide

/-- VF as destination keeps the carry, VF as source is read before it is written. -/
theorem test_addReg_vf : after (regs [(0xF, 0xFF), (2, 2)]) 0x8F24 (fun t => t.getV 0xF == 1) = true ∧
    after (regs [(1, 0x10), (0xF, 0xF0)]) 0x81F4 (fun t => t.getV 1 == 0 && t.getV 0xF == 1) = true := by decide

theorem test_subReg : after (regs [(1, 3), (2, 5)]) 0x8125 (fun t => t.getV 1 == 0xFE && t.getV 0xF == 0) = true ∧
    after (regs [(1, 0x42)]) 0x8115 (fun t => t.getV 1 == 0 && t.getV 0xF == 1) = true := by decide

theorem test_subReg_vf : after (regs [(0xF, 5), (1, 3)]) 0x8F15 (fun t => t.getV 0xF == 1) = true ∧
    after (regs [(0xF, 2), (1, 3)]) 0x8F15 (fun t => t.getV 0xF == 0) = true := by decide

theorem test_subnReg : after (regs [(1, 3), (2, 5)]) 0x8127 (fun t => t.getV 1 == 2 && t.getV 0xF == 1) = true ∧
    after (regs [(1, 5), (2, 3)]) 0x8127 (fun t => t.getV 1 == 0xFE && t.getV 0xF == 0) = true := by decide

/-- The parameters with SHIFT_QUIRK = modern_vx. -/
def modern : Params := { defaultParams with shiftQuirk := .modernVx }

theorem test_shr : after (regs [(1, 0), (2, 3)]) 0x8126
    (fun t => t.getV 1 == 1 && t.getV 0xF == 1 && t.getV 2 == 3) = true ∧
    after (under modern [(1, 0x81), (2, 0)]) 0x8126 (fun t => t.getV 1 == 0x40 && t.getV 0xF == 1) = true := by decide

theorem test_shl : after (regs [(1, 0x40), (2, 0x81)]) 0x812E (fun t => t.getV 1 == 2 && t.getV 0xF == 1) = true ∧
    after (under modern [(1, 0x40), (2, 0x81)]) 0x812E (fun t => t.getV 1 == 0x80 && t.getV 0xF == 0) = true := by decide

/-- The byte drawn is free, so the test holds for any: its bits outside the mask are gone. -/
theorem test_rnd : ∃ t, exec (.rnd 1 0x0F) State.reset = .next t ∧ t.getV 1 = (Config.randomByte 0 &&& 0x0F) ∧
    (∀ b : Byte, (b &&& 0x0F).toNat < 16) := ⟨_, rfl, rfl, by decide⟩

theorem test_ldI : after State.reset 0xAFFF (fun t => t.i == 0xFFF) = true := by decide

theorem test_addI : after { regs [(0, 1)] with i := 0xFFF } 0xF01E (fun t => t.i == 0x1000 && t.getV 0xF == 0) = true ∧
    after { regs [(0, 1)] with i := 0xFFFF } 0xF01E (fun t => t.i == 0) = true := by decide

theorem test_ldF : after (regs [(0, 0x1A)]) 0xF029 (fun t => t.i == 0x082) = true ∧
    after (regs [(0, 0x0F)]) 0xF029 (fun t => t.i == 0x09B) = true := by decide

theorem test_ldB : after { regs [(0, 123)] with i := 0xFFD } 0xF033
    (fun t => t.readBytes 0xFFD 3 == [1, 2, 3] && t.i == 0xFFD) = true := by decide

theorem test_ldB_out_of_range : after { regs [(0, 123)] with i := 0xFFE } 0xF033
    (fun t => haltedOn t (.addressOutOfRange 0x200 (some 0xF033) 0x1000) && t.readBytes 0xFFE 2 == [0, 0]) = true := by
  decide

/-- The parameters with INDEX_INCREMENT_QUIRK = unchanged. -/
def fixedIndex : Params := { defaultParams with indexQuirk := .unchanged }

theorem test_dump : after { regs [(0, 1), (1, 2), (2, 3), (3, 4)] with i := 0x300 } 0xF255
    (fun t => t.readBytes 0x300 4 == [1, 2, 3, 0] && t.i == 0x303) = true ∧
    after { under fixedIndex [(0, 0xAA)] with i := 0x300 } 0xF055
    (fun t => t.readByte 0x300 == 0xAA && t.i == 0x300) = true := by decide

theorem test_dump_out_of_range : after { regs [(0, 1)] with i := 0xFFE } 0xF255
    (fun t => haltedOn t (.addressOutOfRange 0x200 (some 0xF255) 0x1000) && t.readBytes 0xFFE 2 == [0, 0] &&
      t.i == 0xFFE && t.pc == 0x202) = true := by decide

theorem test_load : after ({ regs [(3, 9)] with i := 0x300 }.writeBytes 0x300 [7, 8, 9, 10]) 0xF265
    (fun t => t.getV 0 == 7 && t.getV 1 == 8 && t.getV 2 == 9 && t.getV 3 == 9 && t.i == 0x303) = true := by decide

theorem test_load_out_of_range : after { State.reset with i := 0x1005 } 0xF065
    (fun t => haltedOn t (.addressOutOfRange 0x200 (some 0xF065) 0x1005) && t.i == 0x1005) = true := by decide

/-- A display with one lit pixel. -/
def lit (s : State) (x y : Nat) : State :=
  { s with display := Vector.ofFn fun r : Fin 32 => Vector.ofFn fun c : Fin 64 => decide (c.val = x ∧ r.val = y) }

theorem test_cls : after (lit (regs [(0xF, 1)]) 5 7) 0x00E0
    (fun t => !t.getPixel 5 7 && !t.getPixel 0 0 && t.getV 0xF == 1) = true := by decide

/-- One row of ones at column 62, clipped at the right edge. -/
theorem test_drw_clip : after ({ lit (regs [(0, 62)]) 63 0 with i := 0x300 }.writeByte 0x300 0xFF) 0xD011
    (fun t => t.getPixel 62 0 && !t.getPixel 63 0 && !t.getPixel 0 0 && t.getV 0xF == 1) = true := by decide

/-- The same wrapped round, with the row taken modulo 64 before it wraps. -/
theorem test_drw_wrap : after ({ under { defaultParams with spriteEdge := .wrap, drawYModulus := .rows64 }
      [(0, 62), (1, 32)] with i := 0x300 }.writeByte 0x300 0xFF) 0xD011
    (fun t => t.getPixel 62 0 && t.getPixel 63 0 && t.getPixel 5 0 && !t.getPixel 6 0 && !t.getPixel 0 1 &&
      t.getV 0xF == 0) = true := by decide

theorem test_skp : executed { regs [(0, 5)] with keys := (Vector.replicate 16 false).set 5 true } 0xE09E
    (fun t => t.pc == 0x204) = true ∧
    executed { regs [(0, 0x15)] with keys := (Vector.replicate 16 false).set 5 true } 0xE09E
    (fun t => haltedOn t (.keyIndexOutOfRange 0x200 0xE09E 0x15) && t.pc == 0x202) = true := by decide

theorem test_sknp : executed { regs [(0, 5)] with keys := (Vector.replicate 16 false).set 5 true } 0xE0A1
    (fun t => t.pc == 0x202) = true ∧
    executed (regs [(0, 5)]) 0xE0A1 (fun t => t.pc == 0x204) = true := by decide

theorem test_ldVxDt : after { State.reset with dt := 0x3C } 0xF307 (fun t => t.getV 3 == 0x3C) = true := by decide

theorem test_ldDtVx : after (regs [(3, 0xFF)]) 0xF315 (fun t => t.dt == 0xFF && t.st == 0) = true := by decide

theorem test_ldStVx : after (regs [(3, 2)]) 0xF318 (fun t => t.st == 2 && t.soundActive && t.dt == 0) = true ∧
    after { State.reset with st := 4 } 0xF318 (fun t => t.st == 0 && !t.soundActive) = true := by decide

theorem test_ldVxK : executed State.reset 0xF50A
    (fun t => decide (t.mode = .waiting 5 (Vector.replicate 16 false)) && t.pc == 0x202 && t.getV 5 == 0) = true := by
  decide

/-! ### Key-wait cycles (2.7) -/

/-- Keys with one down. -/
def onlyKey (k : RegIdx) : Keys := (Vector.replicate 16 false).set k.toNat true k.isLt

/-- A machine waiting for a key into V1. -/
def waitingOn (snap now : Keys) : State := { State.reset with mode := .waiting 1 snap, keys := now }

/-- A held key is no press: its release is seen first. -/
theorem test_wait_held_key :
    cycle (waitingOn (onlyKey 3) (onlyKey 3)) = .next (waitingOn (onlyKey 3) (onlyKey 3)) ∧
    cycle (waitingOn (onlyKey 3) (Vector.replicate 16 false)) =
      .next (waitingOn (Vector.replicate 16 false) (Vector.replicate 16 false)) := ⟨rfl, rfl⟩

/-- One new key is the only choice, whatever the free value. -/
theorem test_wait_new_key :
    ∃ t, cycle (waitingOn (Vector.replicate 16 false) (onlyKey 3)) = .next t ∧ t.getV 1 = 3 ∧ t.mode = .running ∧
      t.pc = 0x200 := by
  refine ⟨_, rfl, ?_, rfl, rfl⟩
  show State.getV ((State.drawn _).setV 1 ((State.keyChoice _ [3]).setWidth 8)) 1 = 3
  simp only [State.keyChoice, List.length_singleton, Nat.mod_one]
  rfl

/-- Host calls apply in their order: press and release within one turn leaves the key up. -/
theorem test_host_calls_in_order :
    ([⟨4, true⟩, ⟨9, true⟩, ⟨4, false⟩] : List KeyCall).foldl applyKeyCall (Vector.replicate 16 false) = onlyKey 9 := by
  decide

/-! ### Scheduler (2.8, E9, E11) -/

/-- The parameters at another clock. -/
def clock (hz : Nat) : Params := { defaultParams with clockHz := hz }

/-- 500 Hz: a frame of 8 cycles from credit 0 leaves credit 20, and 8 again leaves 40, then 9. -/
theorem test_frame_cycles :
    stepped State.reset (fun t => t.phase == .inFrame 8 && t.credit == 20) = true ∧
    { State.reset with credit := 20 }.frameCycles = 8 ∧ { State.reset with credit := 40 }.frameCycles = 9 := by decide

/-- 60 Hz: the frame's last cycle leaves the timers, and the step after it is the tick and the redraw. -/
theorem test_tick_after_cycle :
    after { State.reset with params := clock 60, dt := 3, st := 1 } 0x1200
      (fun t => t.dt == 3 && t.st == 1 && t.redraws == 0 && t.phase == .inFrame 0) = true ∧
    stepped { State.reset with params := clock 60, dt := 3, st := 1, phase := .inFrame 0 }
      (fun t => t.dt == 2 && t.st == 0 && t.redraws == 1 && t.phase == .between && t.pc == 0x200) = true := by decide

/-- Under tick_then_cycles the opening step ticks and the closing one does not. -/
theorem test_tick_before_cycles :
    stepped { State.reset with params := { clock 60 with tickOrder := .tickThenCycles }, dt := 3, st := 1 }
      (fun t => t.dt == 2 && t.st == 0 && !t.soundActive && t.phase == .inFrame 1) = true ∧
    stepped { State.reset with params := { clock 60 with tickOrder := .tickThenCycles }, dt := 2, phase := .inFrame 0 }
      (fun t => t.dt == 2 && t.redraws == 1 && t.phase == .between) = true := by decide

/-- 30 Hz: the first frame has no cycle, so the step after its opening closes it. -/
theorem test_frame_of_no_cycles :
    stepped { State.reset with params := clock 30 } (fun t => t.phase == .inFrame 0 && t.credit == 30) = true := by decide

/-- A fatal error in the last cycle of a frame: no tick and no redraw, in that step and in the next. -/
theorem test_no_tick_after_halt :
    after { State.reset with params := clock 60, dt := 5 } 0x0000
      (fun t => t.dt == 5 && t.redraws == 0 && t.isHalted && stepped t (fun u => u.dt == 5 && u.redraws == 0)) = true := by
  decide

/-- Timers stay at 0. -/
theorem test_timer_clamps : ({ State.reset with dt := 1 } : State).timerTick.dt = 0 ∧
    State.reset.timerTick.dt = 0 ∧ State.reset.timerTick.st = 0 := by decide

/-- Parameters that break R5 describe no machine. -/
theorem test_invalid_params :
    step { State.reset with params := clock 0 } = .fault .invalidParams ∧
    Params.valid { defaultParams with fontBase := 0x1B0 } = true ∧
    Params.valid { defaultParams with fontBase := 0x1B1 } = false := ⟨rfl, by decide, by decide⟩

/-! ### Load (E1, E2, 2.9) -/

theorem test_load_program : ∃ s, loadProgram defaultParams [0x12, 0x00] = .ok s ∧
    s.readBytes 0x200 3 = [0x12, 0x00, 0x00] ∧ s.readBytes 0x050 5 = [0xF0, 0x90, 0x90, 0x90, 0xF0] ∧
    s.readBytes 0x09B 6 = [0xF0, 0x80, 0xF0, 0x80, 0x80, 0x00] ∧ s.pc = 0x200 ∧ s.mode = .running :=
  ⟨_, rfl, by decide, by decide, by decide, rfl, rfl⟩

theorem test_load_too_long :
    loadProgram defaultParams (List.replicate 3585 0) = .error (.loadError 3585) := by
  unfold loadProgram
  rw [List.length_replicate]
  rfl

/-! ### Witnesses: concrete states and operands that meet each statement's hypotheses, clause by clause -/

/-- The invariant of a state whose stack is as reset leaves it, its other parts by evaluation. -/
theorem inv_of (s : State) (hs : s.stack = List.replicate s.params.stackDepth 0) (hp : s.params.valid = true)
    (hm : Memory.wf (unlistedByte s.params) s.mem = true)
    (h : s.pc.toNat ≤ 0x10FE ∧ s.sp ≤ s.params.stackDepth ∧ s.credit < 60 ∧
      s.phase.left ≤ (59 + s.params.clockHz) / 60) :
    s.Inv where
  params := hp
  mem := hm
  pc := h.1
  stackLength := by rw [hs, List.length_replicate]
  sp := h.2.1
  stackEntries := by
    intro w hw
    rw [hs] at hw
    rw [List.eq_of_mem_replicate hw]
    decide
  credit := h.2.2.1
  left := h.2.2.2

/-- The reset state with another SP, PC and I, and registers set. -/
def mk (sp : Nat) (pc i : Word) (l : List (RegIdx × Byte)) : State := { regs l with sp := sp, pc := pc, i := i }

theorem test_wit_decode_total : wellFormedWord 0x8ABE = true ∧ ¬wellFormedWord 0x8ABF = true := by decide

/-- SP 0 underflows; SP 1 and SP 16 pop. -/
theorem test_wit_ret : (mk 0 0x202 0 []).sp = 0 ∧ ((mk 1 0x202 0 []).Inv ∧ 0 < (mk 1 0x202 0 []).sp) ∧
    ((mk 16 0x202 0 []).Inv ∧ 0 < (mk 16 0x202 0 []).sp) :=
  ⟨rfl, ⟨inv_of _ rfl (by decide) rfl (by decide), by decide⟩, inv_of _ rfl (by decide) rfl (by decide), by decide⟩

/-- SP 16 overflows; SP 15 is the last that pushes, and SP 0 the first. -/
theorem test_wit_call : (mk 16 0x202 0 []).sp = (mk 16 0x202 0 []).params.stackDepth ∧
    ((mk 15 0x202 0 []).Inv ∧ (mk 15 0x202 0 []).sp ≠ (mk 15 0x202 0 []).params.stackDepth) ∧
    ((mk 0 0x202 0 []).Inv ∧ (mk 0 0x202 0 []).sp ≠ (mk 0 0x202 0 []).params.stackDepth) :=
  ⟨rfl, ⟨inv_of _ rfl (by decide) rfl (by decide), by decide⟩, inv_of _ rfl (by decide) rfl (by decide), by decide⟩

theorem test_wit_call_then_ret : (mk 15 0x1000 0 []).Inv ∧ (mk 15 0x1000 0 []).sp < (mk 15 0x1000 0 []).params.stackDepth :=
  ⟨inv_of _ rfl (by decide) rfl (by decide), by decide⟩

/-- The highest PC the invariant lets a skip start from, with the condition met and not met. -/
theorem test_wit_skips : (mk 0 0x10FE 0 [(1, 0xFF), (2, 0xFF), (3, 0xFE)]).Inv ∧
    (mk 0 0x10FE 0 [(1, 0xFF), (2, 0xFF), (3, 0xFE)]).getV 1 = 0xFF ∧
    (mk 0 0x10FE 0 [(1, 0xFF), (2, 0xFF), (3, 0xFE)]).getV 1 = (mk 0 0x10FE 0 [(1, 0xFF), (2, 0xFF), (3, 0xFE)]).getV 2 ∧
    (mk 0 0x10FE 0 [(1, 0xFF), (2, 0xFF), (3, 0xFE)]).getV 3 ≠ 0xFF ∧
    (mk 0 0x10FE 0 [(1, 0xFF), (2, 0xFF), (3, 0xFE)]).getV 1 ≠ (mk 0 0x10FE 0 [(1, 0xFF), (2, 0xFF), (3, 0xFE)]).getV 3 :=
  ⟨inv_of _ rfl (by decide) rfl (by decide), by decide, by decide, by decide, by decide⟩

/-- Each of the three logic instructions, with the flag reset and without, and VF as destination or not. -/
theorem test_wit_logic :
    (∀ i f, (i, f) ∈ [(Instr.orReg 1 2, fun a b : Bool => a || b), (Instr.andReg 1 2, fun a b : Bool => a && b),
        (Instr.xorReg 1 2, Bool.xor)] →
      (i = .orReg 1 2 ∧ f = (fun a b => a || b)) ∨ (i = .andReg 1 2 ∧ f = (fun a b => a && b)) ∨
        (i = .xorReg 1 2 ∧ f = Bool.xor)) ∧
    (under { defaultParams with vfResetOnLogic := true } []).params.vfResetOnLogic = true ∧
    State.reset.params.vfResetOnLogic = false ∧ (1 : RegIdx) ≠ 0xF ∧ ¬((0xF : RegIdx) ≠ 0xF) := by
  refine ⟨?_, rfl, rfl, by decide, by decide⟩
  intro i f h
  simpa using h

/-- Sums of 255 and 256, equal and smaller minuends, and a destination that is not VF. -/
theorem test_wit_add_sub : ¬((0x7F : Byte).toNat + (0x80 : Byte).toNat > 255) ∧ (0xFF : Byte).toNat + (1 : Byte).toNat > 255 ∧
    (7 : Byte).toNat ≥ (7 : Byte).toNat ∧ ¬((3 : Byte).toNat ≥ (5 : Byte).toNat) ∧ (0xE : RegIdx) ≠ 0xF := by decide

/-- The shifted operand is V[y] under legacy_vy and V[x] under modern_vx. -/
theorem test_wit_shifts :
    (3 : Byte) = (if (regs [(1, 0x81), (2, 3)]).params.shiftQuirk = .legacyVy then (regs [(1, 0x81), (2, 3)]).getV 2
      else (regs [(1, 0x81), (2, 3)]).getV 1) ∧
    (0x81 : Byte) = (if (under modern [(1, 0x81), (2, 3)]).params.shiftQuirk = .legacyVy
      then (under modern [(1, 0x81), (2, 3)]).getV 2 else (under modern [(1, 0x81), (2, 3)]).getV 1) := by decide

theorem test_wit_random : (0x0F : Byte).getLsbD 4 = false ∧ (0x0F : Byte).getLsbD 8 = false := by decide

theorem test_wit_glyph : State.reset.params.valid = true ∧
    (under { defaultParams with fontBase := 0x1B0 } [(0, 0x1F)]).params.valid = true := by decide

/-- The highest I at which the three digits fit. -/
theorem test_wit_bcd : (mk 0 0x202 0xFFD [(0, 255)]).Inv ∧ (mk 0 0x202 0xFFD [(0, 255)]).i.toNat + 2 ≤ 0xFFF :=
  ⟨inv_of _ rfl (by decide) rfl (by decide), by decide⟩

/-- All sixteen registers up to the last byte of memory, under both index quirks. -/
theorem test_wit_dump_load : (mk 0 0x202 0xFF0 []).Inv ∧ (mk 0 0x202 0xFF0 []).i.toNat + (0xF : RegIdx).toNat ≤ 0xFFF ∧
    (mk 0 0x202 0xFF0 []).params.indexQuirk = .increment ∧
    ({ under fixedIndex [] with i := 0xFFF } : State).Inv ∧
    ({ under fixedIndex [] with i := 0xFFF } : State).i.toNat + (0 : RegIdx).toNat ≤ 0xFFF :=
  ⟨inv_of _ rfl (by decide) rfl (by decide), by decide, rfl, inv_of _ rfl (by decide) rfl (by decide), by decide⟩

/-- One byte too far, for each of the four instructions. -/
theorem test_wit_out_of_range : 0xFFF < (mk 0 0x202 0xFFE []).i.toNat + 2 ∧
    0xFFF < (mk 0 0x202 0xFF1 []).i.toNat + (0xF : RegIdx).toNat ∧
    0 < (2 : Nibble).toNat ∧ 0xFFF < (mk 0 0x202 0xFFF []).i.toNat + (2 : Nibble).toNat - 1 := by decide

/-- No rows whatever I is, one row at the last byte, a pixel the sprite hits and one it does not, lit and unlit. -/
theorem test_wit_draw :
    ((0 : Nibble).toNat = 0 ∨ (mk 0 0x202 0xFFFF []).i.toNat + (0 : Nibble).toNat - 1 ≤ 0xFFF) ∧
    ((1 : Nibble).toNat = 0 ∨ (mk 0 0x202 0xFFF []).i.toNat + (1 : Nibble).toNat - 1 ≤ 0xFFF) ∧
    (SpriteHits ((mk 0 0x202 0xFFF []).writeByte 0xFFF 0x80) 0 0 1 0 0) ∧
    (∀ px py, ¬SpriteHits (mk 0 0x202 0xFFFF []) 0 0 0 px py) ∧
    (lit State.reset 0 0).getPixel 0 0 = true ∧ State.reset.getPixel 63 31 = false := by
  refine ⟨.inl rfl, .inr (by decide), ⟨0, 0, by decide, by decide, by decide, rfl, rfl⟩, ?_, by decide, by decide⟩
  rintro px py ⟨r, c, hr, _⟩
  exact absurd hr (Nat.not_lt_zero r)

/-- The first value that names no key, and the last that names one, down and up. -/
theorem test_wit_key_skips : 15 < ((mk 0 0x202 0 [(0, 16)]).getV 0).toNat ∧
    ((mk 0 0x10FE 0 [(0, 15)]).Inv ∧ ((mk 0 0x10FE 0 [(0, 15)]).getV 0).toNat = (0xF : RegIdx).toNat) ∧
    (mk 0 0x10FE 0 [(0, 15)]).keyDown 0xF = false ∧
    ({ mk 0 0x10FE 0 [(0, 15)] with keys := onlyKey 0xF } : State).Inv ∧
    ({ mk 0 0x10FE 0 [(0, 15)] with keys := onlyKey 0xF } : State).keyDown 0xF = true :=
  ⟨by decide, ⟨inv_of _ rfl (by decide) rfl (by decide), by decide⟩, by decide,
    inv_of _ rfl (by decide) rfl (by decide), by decide⟩

/-- A wait that sees only a held key, and one that sees a new one. -/
theorem test_wit_waiting :
    ((waitingOn (onlyKey 3) (onlyKey 3)).mode = .waiting 1 (onlyKey 3) ∧
      ∀ k : RegIdx, (waitingOn (onlyKey 3) (onlyKey 3)).keyDown k = true → (onlyKey 3)[k.toNat]'(k.isLt) = true) ∧
    ((waitingOn (onlyKey 3) (onlyKey 0xF)).mode = .waiting 1 (onlyKey 3) ∧
      ∃ k : RegIdx, (waitingOn (onlyKey 3) (onlyKey 0xF)).keyDown k = true ∧ (onlyKey 3)[k.toNat]'(k.isLt) = false) :=
  ⟨⟨rfl, by decide⟩, rfl, 0xF, by decide, by decide⟩

/-- A machine about to fetch the word `w` at `pc` in the last cycle of a frame, under MISALIGNED_PC = `m`. -/
def fetching (m : MisalignedPc) (pc w : Word) : State :=
  { State.reset with pc := pc, phase := .inFrame 1, params := { defaultParams with misalignedPc := m } }.writeBytes pc.toNat (bytesOfWord w)

/-- At the last even address under fault, and at an odd one under allow. -/
theorem test_wit_step_runs :
    ((fetching .fault 0xFFE 0x6001).params.valid = true ∧ (fetching .fault 0xFFE 0x6001).mode = .running ∧
      (fetching .fault 0xFFE 0x6001).phase = .inFrame (0 + 1) ∧
      (fetching .fault 0xFFE 0x6001).pc.toNat ≤ 0xFFE ∧ (fetching .fault 0xFFE 0x6001).pc.toNat % 2 = 0 ∧
      decode ((fetching .fault 0xFFE 0x6001).readByte 0xFFE ++ (fetching .fault 0xFFE 0x6001).readByte 0xFFF) =
        .ok (.ldImm 0 1)) ∧
    ((fetching .allow 0x201 0x6007).params.valid = true ∧ (fetching .allow 0x201 0x6007).mode = .running ∧
      (fetching .allow 0x201 0x6007).phase = .inFrame (0 + 1) ∧
      (fetching .allow 0x201 0x6007).pc.toNat ≤ 0xFFE ∧ (fetching .allow 0x201 0x6007).params.misalignedPc = .allow ∧
      decode ((fetching .allow 0x201 0x6007).readByte 0x201 ++ (fetching .allow 0x201 0x6007).readByte 0x202) =
        .ok (.ldImm 0 7)) := by decide

/-- The first PC out of range, an odd PC under fault, and an illegal word at a PC that fetches. -/
theorem test_wit_fetch_errors :
    ({ State.reset with pc := 0xFFF } : State).mode = .running ∧ 0xFFE < ({ State.reset with pc := 0xFFF } : State).pc.toNat ∧
    ((fetching .fault 0xFFD 0x0000).mode = .running ∧ (fetching .fault 0xFFD 0x0000).pc.toNat ≤ 0xFFE ∧
      (fetching .fault 0xFFD 0x0000).params.misalignedPc = .fault ∧ (fetching .fault 0xFFD 0x0000).pc.toNat % 2 = 1) ∧
    ((fetching .fault 0xFFE 0x8ABF).pc.toNat ≤ 0xFFE ∧ (fetching .fault 0xFFE 0x8ABF).pc.toNat % 2 = 0 ∧
      (0x8ABF : Word) = (fetching .fault 0xFFE 0x8ABF).readByte 0xFFE ++ (fetching .fault 0xFFE 0x8ABF).readByte 0xFFF ∧
      wellFormedWord 0x8ABF = false) := by decide

/-- A halted machine. -/
def halted : State := { State.reset with mode := .halted (.stackUnderflow 0x200 0x00EE) }

theorem test_wit_halted : halted.mode = .halted (.stackUnderflow 0x200 0x00EE) ∧ halted.params.valid = true :=
  ⟨rfl, by decide⟩

/-- RET on the empty stack is an instruction that halts. -/
theorem test_wit_instruction_error : ∃ t, (mk 0 0x202 0 []).isHalted = false ∧ exec .ret (mk 0 0x202 0 []) = .next t ∧
    t.mode = .halted (.stackUnderflow 0x200 0x00EE) := ⟨_, rfl, rfl, rfl⟩

/-- The first cycle after reset halts: empty memory holds no instruction. -/
theorem test_wit_fatal_step : ∃ t u, ({ State.reset with phase := .inFrame 1 } : State).isHalted = false ∧
    step { State.reset with phase := .inFrame 1 } = .next t ∧ t.isHalted = true ∧ Host.Core.run core 1 t = .next u :=
  ⟨_, _, rfl, rfl, rfl, rfl⟩

/-- Timers at 0 and above. -/
theorem test_wit_timers : ¬((0 : Byte).toNat > 0) ∧ (1 : Byte).toNat > 0 := by decide

/-- A frame of cycles, one of none, and one that does not halt. -/
theorem test_wit_steps_make_frame : State.reset.params.valid = true ∧ State.reset.phase = .between ∧
    ({ State.reset with params := clock 30 } : State).params.valid = true ∧
    ({ State.reset with params := clock 30 } : State).frameCycles = 0 ∧
    ∃ t, frame { State.reset with params := clock 30 } = .next t ∧ t.isHalted = false :=
  ⟨by decide, rfl, by decide, by decide, _, rfl, rfl⟩

/-- One frame of one cycle, and no frame at all. -/
theorem test_wit_cadence : ∃ s t, s.credit = 0 ∧ runFrames 1 s = .next t ∧ t.isHalted = false ∧
    runFrames 0 s = .next s ∧ s.isHalted = false :=
  ⟨{ State.reset with params := clock 60 }.withFetchWord 16 0x1200, _, rfl, rfl, rfl, rfl, rfl⟩

/-- Each of the three places a step can start from, and each of the three operations around a cycle. -/
theorem test_wit_frames : State.reset.params.valid = true ∧ State.reset.isHalted = false ∧ State.reset.phase = .between ∧
    (State.reset.setPhase (.inFrame 0)).phase = .inFrame 0 ∧ (State.reset.setPhase (.inFrame 1)).phase = .inFrame (0 + 1) ∧
    State.reset.hostTurn ∈ [State.reset.hostTurn, State.reset.openFrame, State.reset.closeFrame] ∧
    State.reset.closeFrame ∈ [State.reset.hostTurn, State.reset.openFrame, State.reset.closeFrame] :=
  ⟨by decide, rfl, rfl, rfl, rfl, List.mem_cons_self, by simp⟩

theorem test_wit_host_calls : (4 : RegIdx) ≠ 5 := by decide

/-- A session in being under the parameters of the load. -/
theorem test_wit_reload : halted.params = defaultParams ∧ ([0x12, 0x00] : List Byte).length ≤ 3584 ∧
    ({ State.reset with draws := 3 } : State).params = defaultParams := ⟨rfl, by decide, rfl⟩

/-- The longest program that loads and the shortest that does not; a byte in neither the program nor the font. -/
theorem test_wit_load : defaultParams.valid = true ∧ (List.replicate 3584 (0 : Byte)).length ≤ 3584 ∧
    3584 < (List.replicate 3585 (0 : Byte)).length ∧ ¬(0x200 ≤ 0x1FF ∧ 0x1FF < 0x200 + 2) ∧
    ¬(defaultParams.fontBase ≤ 0x1FF ∧ 0x1FF < defaultParams.fontBase + 80) := by
  refine ⟨by decide, ?_, ?_, by decide, by decide⟩ <;> simp only [List.length_replicate] <;> omega

theorem test_wit_load_inv : ∃ s, defaultParams.valid = true ∧ loadProgram defaultParams [0x12, 0x00] = .ok s :=
  ⟨_, by decide, rfl⟩

/-- A step of a state that meets the invariant, halting (reset) and not (JP 0x200). -/
theorem test_wit_step_inv : (∃ t, State.reset.Inv ∧ step State.reset = .next t) ∧
    ∃ t, (State.reset.withFetchWord 16 0x1200).Inv ∧ step (State.reset.withFetchWord 16 0x1200) = .next t ∧
      t.isHalted = false :=
  ⟨⟨_, inv_of _ rfl (by decide) rfl (by decide), rfl⟩, _, inv_of _ rfl (by decide) (by decide) (by decide), rfl, rfl⟩

theorem test_wit_step_answers : State.reset.params.valid = true ∧ halted.params.valid = true := by decide

/-- ADD V0, 1 is an instruction to which each of the rules on writers applies. -/
theorem test_wit_writers : ∃ t, exec (.addImm 0 1) (mk 0 0x202 0 []) = .next t ∧
    (∀ x, Instr.addImm 0 1 ≠ .ldB x ∧ Instr.addImm 0 1 ≠ .dump x) ∧ Instr.addImm 0 1 ≠ .cls ∧
    (∀ x y n, Instr.addImm 0 1 ≠ .drw x y n) ∧ Instr.addImm 0 1 ≠ .ret ∧
    (∀ nnn, Instr.addImm 0 1 ≠ .jp nnn ∧ Instr.addImm 0 1 ≠ .call nnn ∧ Instr.addImm 0 1 ≠ .jpV0 nnn) ∧
    (∀ x nn, Instr.addImm 0 1 ≠ .seImm x nn ∧ Instr.addImm 0 1 ≠ .sneImm x nn) ∧
    (∀ x y, Instr.addImm 0 1 ≠ .seReg x y ∧ Instr.addImm 0 1 ≠ .sneReg x y) ∧
    (∀ x, Instr.addImm 0 1 ≠ .skp x ∧ Instr.addImm 0 1 ≠ .sknp x) := by
  exact ⟨_, rfl, by simp⟩

/-- The same for the writers of I, DT and ST, and a dump that leaves I under unchanged. -/
theorem test_wit_special_writers : (∃ t, exec (.addImm 0 1) (mk 0 0x202 0 []) = .next t) ∧
    (∀ nnn, Instr.addImm 0 1 ≠ .ldI nnn) ∧
    (∀ x, Instr.addImm 0 1 ≠ .addI x ∧ Instr.addImm 0 1 ≠ .ldF x ∧ Instr.addImm 0 1 ≠ .dump x ∧ Instr.addImm 0 1 ≠ .load x) ∧
    (∀ x, Instr.addImm 0 1 ≠ .ldDtVx x) ∧ (∀ x, Instr.addImm 0 1 ≠ .ldStVx x) ∧
    (∃ t, exec (.dump 0) (under fixedIndex []) = .next t) ∧ (under fixedIndex []).params.indexQuirk = .unchanged ∧
    (∀ nnn, Instr.dump 0 ≠ .ldI nnn) ∧ (∀ x, Instr.dump 0 ≠ .addI x ∧ Instr.dump 0 ≠ .ldF x) := by
  refine ⟨⟨_, rfl⟩, by simp, by simp, by simp, by simp, ⟨_, rfl⟩, rfl, by simp, by simp⟩

/-- V0 and V1 hold JP 0x200, dumped over the next instruction, up to the last byte of memory. -/
theorem test_wit_store_then_fetch : (mk 0 0xFFE 0xFFE [(0, 0x12)]).Inv ∧ (mk 0 0xFFE 0xFFE [(0, 0x12)]).mode = .running ∧
    0 < (1 : RegIdx).toNat ∧ (mk 0 0xFFE 0xFFE [(0, 0x12)]).i = (mk 0 0xFFE 0xFFE [(0, 0x12)]).pc ∧
    (mk 0 0xFFE 0xFFE [(0, 0x12)]).pc.toNat + (1 : RegIdx).toNat ≤ 0xFFF ∧
    (mk 0 0xFFE 0xFFE [(0, 0x12)]).params.misalignedPc = .allow ∧
    decode ((mk 0 0xFFE 0xFFE [(0, 0x12)]).getV 0 ++ (mk 0 0xFFE 0xFFE [(0, 0x12)]).getV 1) = .ok (.jp 0x200) :=
  ⟨inv_of _ rfl (by decide) rfl (by decide), rfl, by decide, rfl, by decide, rfl, by decide⟩

/-- A step that answers a next state. -/
theorem test_wit_params_fixed : ∃ t, step (State.reset.withFetchWord 16 0x1200) = .next t := ⟨_, rfl⟩

end Sys2Proof.Tests
end

section
/-! SUPPORT. A packed word as its fields shifted to their places and joined by `|||`, the form in which the spec writes an encoding (R71). -/

namespace Sys2Proof

/-- Resizing `x ++ y` moves `x` past the low `w` bits and leaves `y` there. -/
theorem setWidth_append_eq_or {v w k : Nat} (x : BitVec v) (y : BitVec w) :
    (x ++ y).setWidth k = x.setWidth k <<< w ||| y.setWidth k := by
  ext i hi
  by_cases hy : i < w
  · simp [BitVec.getLsbD_append, hy]
  · have hlow : y.getLsbD i = false := BitVec.getLsbD_of_ge y i (by omega)
    simp [BitVec.getLsbD_append, hy, hlow]

theorem packNNN_eq_or (c : Nibble) (nnn : Addr) :
    packNNN c nnn = c.setWidth 16 <<< 12 ||| nnn.setWidth 16 :=
  (BitVec.setWidth_eq _).symm.trans (setWidth_append_eq_or c nnn)

theorem packXNN_eq_or (c : Nibble) (x : RegIdx) (nn : Byte) :
    packXNN c x nn = c.setWidth 16 <<< 12 ||| x.setWidth 16 <<< 8 ||| nn.setWidth 16 := by
  calc packXNN c x nn = c.setWidth 16 <<< 12 ||| (x ++ nn : Addr).setWidth 16 := packNNN_eq_or c (x ++ nn)
    _ = _ := by rw [setWidth_append_eq_or x nn, BitVec.or_assoc]

/-- The low nibble stands beside the class, as in the spec's `8XY4` read as `0x8004` with `x` and `y` filled in. -/
theorem packXYN_eq_or (c : Nibble) (x y : RegIdx) (n : Nibble) :
    packXYN c x y n =
      (c.setWidth 16 <<< 12 ||| n.setWidth 16) ||| x.setWidth 16 <<< 8 ||| y.setWidth 16 <<< 4 := by
  calc packXYN c x y n = c.setWidth 16 <<< 12 ||| x.setWidth 16 <<< 8 ||| (y ++ n : Byte).setWidth 16 :=
        packXNN_eq_or c x (y ++ n)
    _ = _ := by rw [setWidth_append_eq_or y n]; ac_rfl

end Sys2Proof
end

section
/-! SUPPORT. Instructions that write PC alone: their frame, and what a skip leaves in PC (R130, R135 to R138). -/

namespace Sys2Proof.Machine

/-- Whatever a jump or a skip puts in PC, every other part of the state stays. -/
theorem pcFrame_setPc (s : State) (w : Word) : PcFrame s (s.setPc w) :=
  ⟨fun _ _ => rfl, fun _ => rfl, ⟨rfl, rfl, rfl⟩, ⟨rfl, rfl⟩, rfl, rfl, ⟨rfl, rfl, rfl, rfl, rfl, rfl⟩⟩

/-- The invariant bounds PC by 0x10FE, so the skip's addition stays below 2^16 (D10, log entry 14). -/
theorem State.Inv.pc_add_two_toNat {s : State} (hs : s.Inv) : (s.pc + 2).toNat = s.pc.toNat + 2 := by
  have hpc := hs.pc
  bv_omega

theorem State.Inv.skipIf_pc_toNat {s : State} (hs : s.Inv) (c : Bool) :
    (s.skipIf c).pc.toNat = if c = true then s.pc.toNat + 2 else s.pc.toNat := by
  cases c
  · rfl
  · exact hs.pc_add_two_toNat

/-- A skip on `p`, as the statements put it: a next state that differs in PC alone, two further on exactly when `p` holds. -/
theorem State.Inv.skip_of {s : State} (hs : s.Inv) (p : Prop) [Decidable p] :
    ∃ t, (.next (s.skipIf (decide p)) : Result) = .next t ∧ PcFrame s t ∧
      t.pc.toNat = if p then s.pc.toNat + 2 else s.pc.toNat :=
  ⟨_, rfl, pcFrame_setPc s _, by simpa using hs.skipIf_pc_toNat (decide p)⟩

/-- A skip on `¬ p`, the condition of the two SNE instructions. -/
theorem State.Inv.skip_of_not {s : State} (hs : s.Inv) (p : Prop) [Decidable p] :
    ∃ t, (.next (s.skipIf (decide ¬p)) : Result) = .next t ∧ PcFrame s t ∧
      t.pc.toNat = if p then s.pc.toNat else s.pc.toNat + 2 := by
  simpa only [ite_not] using hs.skip_of (¬p)

/-- Settles O10: the encodings are the packed forms; each skip is `skipIf` on its condition, and the invariant keeps PC from wrapping. -/
theorem skipsAddTwoToPc : Obligations.SkipsAddTwoToPc := by
  intro x y nn
  refine ⟨packXNN_eq_or 0x3 x nn, packXNN_eq_or 0x4 x nn, packXYN_eq_or 0x5 x y 0x0, packXYN_eq_or 0x9 x y 0x0,
    fun s hs => ⟨?seImm, ?sneImm, ?seReg, ?sneReg⟩⟩
  case seImm => exact hs.skip_of (s.getV x = nn)
  case sneImm => exact hs.skip_of_not (s.getV x = nn)
  case seReg => exact hs.skip_of (s.getV x = s.getV y)
  case sneReg => exact hs.skip_of_not (s.getV x = s.getV y)

end Sys2Proof.Machine
end

section
/-! SUPPORT. Instructions that write general registers alone: their frame from the effect lemmas of the shared operations (R150 to R161). -/

namespace Sys2Proof.Machine

/-- The frame speaks of every field but `v`, which `RegsKept` covers, and the model's own draw count. -/
theorem registerFrame_of_eq {ws : List RegIdx} {s t : State} (ht : t = { s with v := t.v, draws := t.draws })
    (hr : RegsKept ws s t) : RegisterFrame ws s t := by
  rw [ht] at hr ⊢
  exact ⟨rfl, hr, fun _ => rfl, ⟨rfl, rfl, rfl⟩, ⟨rfl, rfl⟩, rfl, rfl, ⟨rfl, rfl, rfl, rfl, rfl, rfl⟩⟩

theorem registerFrame_setV (s : State) (x : RegIdx) (b : Byte) : RegisterFrame [x] s (s.setV x b) :=
  have ⟨heq, hkept⟩ := setV_effect s x b
  registerFrame_of_eq heq hkept

/-- Settles O11: the encoding is the packed form, and the effect is one register write, for `x = 15` as for any other. -/
theorem loadImmediateWritesVx : Obligations.LoadImmediateWritesVx := by
  intro x nn
  refine ⟨packXNN_eq_or 0x6 x nn, fun s => ⟨s.setV x nn, rfl, ?written, ?frame⟩⟩
  case written => exact getV_setV_same s x nn
  case frame => exact registerFrame_setV s x nn

end Sys2Proof.Machine
end

section
/-! SUPPORT. Instructions that write the index alone: their frame (R180 to R182). -/

namespace Sys2Proof.Machine

/-- Whatever an instruction puts in I, every other part of the state stays. -/
theorem indexFrame_setI (s : State) (w : Word) : IndexFrame s (s.setI w) :=
  ⟨rfl, fun _ _ => rfl, fun _ => rfl, rfl, rfl, ⟨rfl, rfl⟩, rfl, rfl, ⟨rfl, rfl, rfl, rfl, rfl, rfl⟩⟩

/-- A 12-bit address keeps its value as a word, so bits 15 to 12 are clear (R180). -/
theorem zextAddr_toNat (a : Addr) : (zextAddr a).toNat = a.toNat :=
  BitVec.toNat_setWidth_of_le (by decide)

/-- Settles O20: the encoding is the packed form, and the effect is one write of I with the zero-extended address. -/
theorem loadIndex : Obligations.LoadIndex := by
  intro nnn
  refine ⟨packNNN_eq_or 0xA nnn, fun s => ⟨s.setI (zextAddr nnn), rfl, ?index, ?frame⟩⟩
  case index => exact zextAddr_toNat nnn
  case frame => exact indexFrame_setI s (zextAddr nnn)

end Sys2Proof.Machine
end

section
/-! SUPPORT. Instructions that write the display: what they leave unchanged, and the cleared screen (R201). -/

namespace Sys2Proof.Machine

/-- What `setDisplay` leaves alone, in the order the statements about the display list it. -/
theorem setDisplay_keeps_rest (s : State) (d : Display) :
    (s.setDisplay d).pc = s.pc ∧ RegsKept [] s (s.setDisplay d) ∧ MemoryKept s (s.setDisplay d) ∧
      SpecialsKept s (s.setDisplay d) ∧ StackKept s (s.setDisplay d) ∧ ModeKept s (s.setDisplay d) ∧
      OutsideKept s (s.setDisplay d) :=
  ⟨rfl, fun _ _ => rfl, fun _ => rfl, ⟨rfl, rfl, rfl⟩, ⟨rfl, rfl⟩, rfl, ⟨rfl, rfl, rfl, rfl, rfl, rfl⟩⟩

/-- On the screen `pixelOf` reads the two vectors in bounds, and each element of a replicated vector is its value. -/
theorem pixelOf_replicate_false {x y : Nat} (hx : x < 64) (hy : y < 32) :
    pixelOf (Vector.replicate 32 (Vector.replicate 64 false)) x y = false := by
  rw [pixelOf_eq _ hx hy, Vector.getElem_replicate, Vector.getElem_replicate]

/-- Settles O27: CLS is one write of the display with every pixel false. -/
theorem clearDisplay : Obligations.ClearDisplay := by
  refine ⟨rfl, fun s => ⟨s.setDisplay (Vector.replicate 32 (Vector.replicate 64 false)), rfl, ?pixels, ?frame⟩⟩
  case pixels => exact fun x y hx hy => pixelOf_replicate_false hx hy
  case frame => exact setDisplay_keeps_rest s _

end Sys2Proof.Machine
end

section
/-! SUPPORT. Instructions that write a timer alone: their frame, and the sound as a reading of ST (R28, R223 to R225). -/

namespace Sys2Proof

/-- The low byte stands beside the class, as in the spec's `FX07` read as `0xF007` with `x` filled in. -/
theorem packXNN_eq_fixed_or_x (c : Nibble) (x : RegIdx) (nn : Byte) :
    packXNN c x nn = (c.setWidth 16 <<< 12 ||| nn.setWidth 16) ||| x.setWidth 16 <<< 8 := by
  rw [packXNN_eq_or]; ac_rfl

end Sys2Proof

namespace Sys2Proof.Machine

/-- Whatever lands in the two timers, the rest of the frame stays; `I` and PC, which the statements list apart, are `rfl`. -/
theorem kept_of_timers_only {s t : State} (ht : t = { s with dt := t.dt, st := t.st }) :
    RegsKept [] s t ∧ MemoryKept s t ∧ StackKept s t ∧ ModeKept s t ∧ DisplayKept s t ∧ OutsideKept s t := by
  rw [ht]
  exact ⟨fun _ _ => rfl, fun _ => rfl, ⟨rfl, rfl⟩, rfl, rfl, ⟨rfl, rfl, rfl, rfl, rfl, rfl⟩⟩

theorem soundActive_iff_st_pos (s : State) : s.soundActive = true ↔ 0 < s.st.toNat := by
  rw [State.soundActive, decide_eq_true_eq, BitVec.toNat_ne]
  exact Nat.pos_iff_ne_zero.symm

/-- Settles O30: the encodings are the packed forms; each instruction is one write, of V[x], of DT or of ST. -/
theorem timerMoves : Obligations.TimerMoves := by
  intro x
  refine ⟨packXNN_eq_fixed_or_x 0xF x 0x07, packXNN_eq_fixed_or_x 0xF x 0x15, packXNN_eq_fixed_or_x 0xF x 0x18, fun s =>
    ⟨⟨s.setV x s.dt, rfl, ?readDt⟩, ⟨s.setDt (s.getV x), rfl, ?writeDt⟩, ⟨s.setSt (s.getV x), rfl, ?writeSt⟩⟩⟩
  case readDt => exact ⟨getV_setV_same s x s.dt, registerFrame_setV s x s.dt⟩
  case writeDt => exact ⟨rfl, rfl, rfl, rfl, kept_of_timers_only rfl⟩
  case writeSt => exact ⟨rfl, soundActive_iff_st_pos _, rfl, rfl, rfl, kept_of_timers_only rfl⟩

end Sys2Proof.Machine
end

section
/-! SUPPORT. The decoder and the encoder are inverse to each other (R74 to R76), and the words under the rows of the opcode map are exactly those the decoder takes. -/

namespace Sys2Proof

/-! ### Decode after encode -/

/-- Settles O2: on a packed word the decoder's three dispatches, class, low nibble and low byte, read the constants the encoder put there. -/
theorem decodeOfEncode : Obligations.DecodeOfEncode := by
  intro i
  cases i
  case cls => rfl
  case ret => rfl
  case jp | call | ldI | jpV0 | seImm | sneImm | ldImm | addImm | rnd | drw => simp [encode, decode]
  case seReg | sneReg => simp [encode, decode, decodeSkip]
  case ldReg | orReg | andReg | xorReg | addReg | subReg | shr | subnReg | shl => simp [encode, decode, decodeClass8]
  case skp | sknp => simp [encode, decode, decodeClassE]
  case ldVxDt | ldVxK | ldDtVx | ldStVx | addI | ldF | ldB | dump | load => simp [encode, decode, decodeClassF]

/-- Settles O1: seventeen fixed words, each decoded by evaluation. -/
theorem specWordsDecode : Obligations.SpecWordsDecode := by
  unfold Obligations.SpecWordsDecode
  decide

/-! ### A word is packed from its own fields (R71) -/

theorem packNNN_fields (w : Word) : packNNN (fieldC w) (fieldNNN w) = w := by
  unfold packNNN fieldC fieldNNN
  rw [BitVec.extractLsb'_append_extractLsb'_eq_extractLsb' (by omega)]
  exact BitVec.extractLsb'_eq_self

theorem packXNN_fields (w : Word) : packXNN (fieldC w) (fieldX w) (fieldNN w) = w := by
  have hlow : (fieldX w ++ fieldNN w : Addr) = fieldNNN w := BitVec.extractLsb'_append_extractLsb'_eq_extractLsb' rfl
  exact (congrArg (packNNN (fieldC w)) hlow).trans (packNNN_fields w)

theorem packXYN_fields (w : Word) : packXYN (fieldC w) (fieldX w) (fieldY w) (fieldN w) = w := by
  have hlow : (fieldY w ++ fieldN w : Byte) = fieldNN w := BitVec.extractLsb'_append_extractLsb'_eq_extractLsb' rfl
  exact (congrArg (packXNN (fieldC w) (fieldX w)) hlow).trans (packXNN_fields w)

/-! ### Encode after decode: a word that decodes is its instruction's word -/

theorem eq_of_toNat_eq {n k : Nat} {a : BitVec n} (h : a.toNat = k) : BitVec.ofNat n k = a := by
  rw [← h, BitVec.ofNat_toNat, BitVec.setWidth_eq]

theorem packNNN_of_class {w : Word} {k : Nat} (hc : (fieldC w).toNat = k) :
    packNNN (BitVec.ofNat 4 k) (fieldNNN w) = w := by
  rw [eq_of_toNat_eq hc, packNNN_fields]

theorem packXNN_of_class {w : Word} {k : Nat} (hc : (fieldC w).toNat = k) :
    packXNN (BitVec.ofNat 4 k) (fieldX w) (fieldNN w) = w := by
  rw [eq_of_toNat_eq hc, packXNN_fields]

theorem packXYN_of_class {w : Word} {k : Nat} (hc : (fieldC w).toNat = k) :
    packXYN (BitVec.ofNat 4 k) (fieldX w) (fieldY w) (fieldN w) = w := by
  rw [eq_of_toNat_eq hc, packXYN_fields]

theorem packXNN_of_class_byte {w : Word} {k b : Nat} (hc : (fieldC w).toNat = k) (hb : (fieldNN w).toNat = b) :
    packXNN (BitVec.ofNat 4 k) (fieldX w) (BitVec.ofNat 8 b) = w := by
  rw [eq_of_toNat_eq hb, packXNN_of_class hc]

theorem packXYN_of_class_nibble {w : Word} {k b : Nat} (hc : (fieldC w).toNat = k) (hb : (fieldN w).toNat = b) :
    packXYN (BitVec.ofNat 4 k) (fieldX w) (fieldY w) (BitVec.ofNat 4 b) = w := by
  rw [eq_of_toNat_eq hb, packXYN_of_class hc]

theorem encode_of_decodeClass0 {w : Word} {i : Instr} (h : decodeClass0 w = .ok i) : encode i = w := by
  unfold decodeClass0 at h
  split at h <;> cases h
  case h_1 hw => exact eq_of_toNat_eq hw
  case h_2 hw => exact eq_of_toNat_eq hw

theorem decodeSkip_ok {w : Word} {i j : Instr} (h : decodeSkip w j = .ok i) : (fieldN w).toNat = 0 ∧ j = i := by
  unfold decodeSkip at h
  split at h <;> cases h
  case h_1 hn => exact ⟨hn, rfl⟩

theorem encode_of_decodeClass8 {w : Word} {i : Instr} (hc : (fieldC w).toNat = 0x8) (h : decodeClass8 w = .ok i) :
    encode i = w := by
  unfold decodeClass8 at h
  split at h <;> cases h
  all_goals exact packXYN_of_class_nibble hc (by assumption)

theorem encode_of_decodeClassE {w : Word} {i : Instr} (hc : (fieldC w).toNat = 0xE) (h : decodeClassE w = .ok i) :
    encode i = w := by
  unfold decodeClassE at h
  split at h <;> cases h
  all_goals exact packXNN_of_class_byte hc (by assumption)

theorem encode_of_decodeClassF {w : Word} {i : Instr} (hc : (fieldC w).toNat = 0xF) (h : decodeClassF w = .ok i) :
    encode i = w := by
  unfold decodeClassF at h
  split at h <;> cases h
  all_goals exact packXNN_of_class_byte hc (by assumption)

/-- The decoder's k-th branch is class `k - 1`, and its last one is class F. -/
theorem encode_of_decode {w : Word} {i : Instr} (h : decode w = .ok i) : encode i = w := by
  unfold decode at h
  split at h
  case h_1 => exact encode_of_decodeClass0 h
  case h_6 | h_10 =>
    obtain ⟨hn, rfl⟩ := decodeSkip_ok h
    exact packXYN_of_class_nibble (by assumption) hn
  case h_9 hc => exact encode_of_decodeClass8 hc h
  case h_15 hc => exact encode_of_decodeClassE hc h
  case h_16 => exact encode_of_decodeClassF (by have := (fieldC w).isLt; simp only [imp_false] at *; omega) h
  case h_2 | h_3 | h_11 | h_12 => cases h; exact packNNN_of_class (by assumption)
  case h_4 | h_5 | h_7 | h_8 | h_13 => cases h; exact packXNN_of_class (by assumption)
  case h_14 => cases h; exact packXYN_of_class (by assumption)

/-! ### A row keeps of a word the fields under its mask (R74) -/

theorem and_classMask (w : Word) : w &&& 0xF000 = packNNN (fieldC w) 0 := by
  have hmask : (0xF000 : Word) = BitVec.allOnes 4 ++ (0 : Addr) := by decide
  conv_lhs => rw [← packNNN_fields w, hmask, packNNN, BitVec.and_append, BitVec.and_allOnes, and_zeros]
  rfl

theorem and_nibbleMask (w : Word) : w &&& 0xF00F = packXYN (fieldC w) 0 0 (fieldN w) := by
  have hmask : (0xF00F : Word) =
      BitVec.allOnes 4 ++ ((0 : RegIdx) ++ ((0 : RegIdx) ++ BitVec.allOnes 4 : Byte) : Addr) := by
    decide
  conv_lhs =>
    rw [← packXYN_fields w, hmask, packXYN, BitVec.and_append, BitVec.and_append, BitVec.and_append,
      BitVec.and_allOnes, BitVec.and_allOnes, and_zeros, and_zeros]
  rfl

theorem and_byteMask (w : Word) : w &&& 0xF0FF = packXNN (fieldC w) 0 (fieldNN w) := by
  have hmask : (0xF0FF : Word) = BitVec.allOnes 4 ++ ((0 : RegIdx) ++ BitVec.allOnes 8 : Addr) := by decide
  conv_lhs =>
    rw [← packXNN_fields w, hmask, packXNN, BitVec.and_append, BitVec.and_append, BitVec.and_allOnes,
      BitVec.and_allOnes, and_zeros]
  rfl

theorem admits_iff {r : OpcodeRow} {w : Word} : r.admits w = true ↔ w &&& r.mask = r.bits := beq_iff_eq

theorem class_of_admits {c : Nibble} {w : Word} (h : OpcodeRow.admits ⟨packNNN c 0, 0xF000⟩ w = true) :
    fieldC w = c := by
  have hbits : w &&& 0xF000 = packNNN c 0 := admits_iff.mp h
  simpa using congrArg fieldC ((and_classMask w).symm.trans hbits)

theorem packNNN_of_admits (c : Nibble) {w : Word} (h : OpcodeRow.admits ⟨packNNN c 0, 0xF000⟩ w = true) :
    packNNN c (fieldNNN w) = w := by
  rw [← class_of_admits h, packNNN_fields]

theorem packXNN_of_admits (c : Nibble) {w : Word} (h : OpcodeRow.admits ⟨packNNN c 0, 0xF000⟩ w = true) :
    packXNN c (fieldX w) (fieldNN w) = w := by
  rw [← class_of_admits h, packXNN_fields]

theorem packXYN_of_admits (c : Nibble) {w : Word} (h : OpcodeRow.admits ⟨packNNN c 0, 0xF000⟩ w = true) :
    packXYN c (fieldX w) (fieldY w) (fieldN w) = w := by
  rw [← class_of_admits h, packXYN_fields]

theorem packXYN_of_admits_nibble (c n : Nibble) {w : Word}
    (h : OpcodeRow.admits ⟨packXYN c 0 0 n, 0xF00F⟩ w = true) : packXYN c (fieldX w) (fieldY w) n = w := by
  have hbits : w &&& 0xF00F = packXYN c 0 0 n := admits_iff.mp h
  have hfields := (and_nibbleMask w).symm.trans hbits
  have hc : fieldC w = c := by simpa using congrArg fieldC hfields
  have hn : fieldN w = n := by simpa using congrArg fieldN hfields
  rw [← hc, ← hn, packXYN_fields]

theorem packXNN_of_admits_byte (c : Nibble) (nn : Byte) {w : Word}
    (h : OpcodeRow.admits ⟨packXNN c 0 nn, 0xF0FF⟩ w = true) : packXNN c (fieldX w) nn = w := by
  have hbits : w &&& 0xF0FF = packXNN c 0 nn := admits_iff.mp h
  have hfields := (and_byteMask w).symm.trans hbits
  have hc : fieldC w = c := by simpa using congrArg fieldC hfields
  have hn : fieldNN w = nn := by simpa using congrArg fieldNN hfields
  rw [← hc, ← hn, packXNN_fields]

theorem eq_of_admits_whole {b w : Word} (h : OpcodeRow.admits ⟨b, 0xFFFF⟩ w = true) : b = w :=
  (admits_iff.mp h).symm.trans (BitVec.and_allOnes (x := w))

/-- A word that an instruction's row admits is the word of that instruction with the operands the word holds. -/
theorem exists_encode_of_row_admits {i : Instr} {w : Word} (h : i.row.admits w = true) : ∃ j, encode j = w := by
  cases i
  case cls => exact ⟨.cls, eq_of_admits_whole h⟩
  case ret => exact ⟨.ret, eq_of_admits_whole h⟩
  case jp => exact ⟨.jp (fieldNNN w), packNNN_of_admits 0x1 h⟩
  case call => exact ⟨.call (fieldNNN w), packNNN_of_admits 0x2 h⟩
  case ldI => exact ⟨.ldI (fieldNNN w), packNNN_of_admits 0xA h⟩
  case jpV0 => exact ⟨.jpV0 (fieldNNN w), packNNN_of_admits 0xB h⟩
  case seImm => exact ⟨.seImm (fieldX w) (fieldNN w), packXNN_of_admits 0x3 h⟩
  case sneImm => exact ⟨.sneImm (fieldX w) (fieldNN w), packXNN_of_admits 0x4 h⟩
  case ldImm => exact ⟨.ldImm (fieldX w) (fieldNN w), packXNN_of_admits 0x6 h⟩
  case addImm => exact ⟨.addImm (fieldX w) (fieldNN w), packXNN_of_admits 0x7 h⟩
  case rnd => exact ⟨.rnd (fieldX w) (fieldNN w), packXNN_of_admits 0xC h⟩
  case drw => exact ⟨.drw (fieldX w) (fieldY w) (fieldN w), packXYN_of_admits 0xD h⟩
  case seReg => exact ⟨.seReg (fieldX w) (fieldY w), packXYN_of_admits_nibble 0x5 0x0 h⟩
  case sneReg => exact ⟨.sneReg (fieldX w) (fieldY w), packXYN_of_admits_nibble 0x9 0x0 h⟩
  case ldReg => exact ⟨.ldReg (fieldX w) (fieldY w), packXYN_of_admits_nibble 0x8 0x0 h⟩
  case orReg => exact ⟨.orReg (fieldX w) (fieldY w), packXYN_of_admits_nibble 0x8 0x1 h⟩
  case andReg => exact ⟨.andReg (fieldX w) (fieldY w), packXYN_of_admits_nibble 0x8 0x2 h⟩
  case xorReg => exact ⟨.xorReg (fieldX w) (fieldY w), packXYN_of_admits_nibble 0x8 0x3 h⟩
  case addReg => exact ⟨.addReg (fieldX w) (fieldY w), packXYN_of_admits_nibble 0x8 0x4 h⟩
  case subReg => exact ⟨.subReg (fieldX w) (fieldY w), packXYN_of_admits_nibble 0x8 0x5 h⟩
  case shr => exact ⟨.shr (fieldX w) (fieldY w), packXYN_of_admits_nibble 0x8 0x6 h⟩
  case subnReg => exact ⟨.subnReg (fieldX w) (fieldY w), packXYN_of_admits_nibble 0x8 0x7 h⟩
  case shl => exact ⟨.shl (fieldX w) (fieldY w), packXYN_of_admits_nibble 0x8 0xE h⟩
  case skp => exact ⟨.skp (fieldX w), packXNN_of_admits_byte 0xE 0x9E h⟩
  case sknp => exact ⟨.sknp (fieldX w), packXNN_of_admits_byte 0xE 0xA1 h⟩
  case ldVxDt => exact ⟨.ldVxDt (fieldX w), packXNN_of_admits_byte 0xF 0x07 h⟩
  case ldVxK => exact ⟨.ldVxK (fieldX w), packXNN_of_admits_byte 0xF 0x0A h⟩
  case ldDtVx => exact ⟨.ldDtVx (fieldX w), packXNN_of_admits_byte 0xF 0x15 h⟩
  case ldStVx => exact ⟨.ldStVx (fieldX w), packXNN_of_admits_byte 0xF 0x18 h⟩
  case addI => exact ⟨.addI (fieldX w), packXNN_of_admits_byte 0xF 0x1E h⟩
  case ldF => exact ⟨.ldF (fieldX w), packXNN_of_admits_byte 0xF 0x29 h⟩
  case ldB => exact ⟨.ldB (fieldX w), packXNN_of_admits_byte 0xF 0x33 h⟩
  case dump => exact ⟨.dump (fieldX w), packXNN_of_admits_byte 0xF 0x55 h⟩
  case load => exact ⟨.load (fieldX w), packXNN_of_admits_byte 0xF 0x65 h⟩

/-- The laws on the 34 own rows as one statement over all instructions. -/
theorem row_admits_encode (i : Instr) : i.row.admits (encode i) = true := by
  cases i
  case cls => exact Laws.OwnRow.cls
  case ret => exact Laws.OwnRow.ret
  case jp nnn => exact Laws.OwnRow.jp nnn
  case call nnn => exact Laws.OwnRow.call nnn
  case seImm x nn => exact Laws.OwnRow.seImm x nn
  case sneImm x nn => exact Laws.OwnRow.sneImm x nn
  case seReg x y => exact Laws.OwnRow.seReg x y
  case ldImm x nn => exact Laws.OwnRow.ldImm x nn
  case addImm x nn => exact Laws.OwnRow.addImm x nn
  case ldReg x y => exact Laws.OwnRow.ldReg x y
  case orReg x y => exact Laws.OwnRow.orReg x y
  case andReg x y => exact Laws.OwnRow.andReg x y
  case xorReg x y => exact Laws.OwnRow.xorReg x y
  case addReg x y => exact Laws.OwnRow.addReg x y
  case subReg x y => exact Laws.OwnRow.subReg x y
  case shr x y => exact Laws.OwnRow.shr x y
  case subnReg x y => exact Laws.OwnRow.subnReg x y
  case shl x y => exact Laws.OwnRow.shl x y
  case sneReg x y => exact Laws.OwnRow.sneReg x y
  case ldI nnn => exact Laws.OwnRow.ldI nnn
  case jpV0 nnn => exact Laws.OwnRow.jpV0 nnn
  case rnd x nn => exact Laws.OwnRow.rnd x nn
  case drw x y n => exact Laws.OwnRow.drw x y n
  case skp x => exact Laws.OwnRow.skp x
  case sknp x => exact Laws.OwnRow.sknp x
  case ldVxDt x => exact Laws.OwnRow.ldVxDt x
  case ldVxK x => exact Laws.OwnRow.ldVxK x
  case ldDtVx x => exact Laws.OwnRow.ldDtVx x
  case ldStVx x => exact Laws.OwnRow.ldStVx x
  case addI x => exact Laws.OwnRow.addI x
  case ldF x => exact Laws.OwnRow.ldF x
  case ldB x => exact Laws.OwnRow.ldB x
  case dump x => exact Laws.OwnRow.dump x
  case load x => exact Laws.OwnRow.load x

theorem row_mem_opcodeMap (i : Instr) : i.row ∈ opcodeMap := by
  cases i <;> exact List.elem_iff.mp rfl

/-- One instruction for each row of the opcode map, its operands 0. -/
def rowInstrs : List Instr :=
  [.cls, .ret, .jp 0, .call 0, .seImm 0 0, .sneImm 0 0, .seReg 0 0, .ldImm 0 0, .addImm 0 0,
    .ldReg 0 0, .orReg 0 0, .andReg 0 0, .xorReg 0 0, .addReg 0 0, .subReg 0 0, .shr 0 0, .subnReg 0 0, .shl 0 0,
    .sneReg 0 0, .ldI 0, .jpV0 0, .rnd 0 0, .drw 0 0 0, .skp 0, .sknp 0,
    .ldVxDt 0, .ldVxK 0, .ldDtVx 0, .ldStVx 0, .addI 0, .ldF 0, .ldB 0, .dump 0, .load 0]

theorem opcodeMap_eq_map_row : opcodeMap = rowInstrs.map Instr.row := by
  simp only [opcodeMap, rowInstrs, List.map_cons, List.map_nil, List.cons_append, List.nil_append]

/-- The opcode map admits exactly the words that are some instruction's word. -/
theorem wellFormedWord_iff_exists_encode {w : Word} : wellFormedWord w = true ↔ ∃ i, encode i = w := by
  rw [wellFormedWord, List.any_eq_true]
  constructor
  · rintro ⟨r, hr, hadm⟩
    rw [opcodeMap_eq_map_row] at hr
    obtain ⟨i, _, rfl⟩ := List.mem_map.mp hr
    exact exists_encode_of_row_admits hadm
  · rintro ⟨i, rfl⟩
    exact ⟨i.row, row_mem_opcodeMap i, row_admits_encode i⟩

theorem wellFormedWord_iff_decodes {w : Word} : wellFormedWord w = true ↔ ∃ i, decode w = .ok i := by
  rw [wellFormedWord_iff_exists_encode]
  constructor
  · rintro ⟨i, rfl⟩
    exact ⟨i, decodeOfEncode i⟩
  · rintro ⟨i, hi⟩
    exact ⟨i, encode_of_decode hi⟩

theorem not_wellFormedWord_iff_error {w : Word} : wellFormedWord w = false ↔ ∃ e, decode w = .error e := by
  rw [← Bool.not_eq_true, wellFormedWord_iff_decodes]
  cases decode w <;> simp

/-- Settles O3: what decodes is its instruction's word, which the instruction's own row admits. -/
theorem decodeTotalOnWords : Obligations.DecodeTotalOnWords := by
  intro w
  split
  case isTrue hw =>
    obtain ⟨i, hi⟩ := wellFormedWord_iff_decodes.mp hw
    have hw := encode_of_decode hi
    exact ⟨i, hi, hw ▸ row_admits_encode i, hw⟩
  case isFalse hw =>
    exact not_wellFormedWord_iff_error.mp (Bool.eq_false_iff.mpr hw)

/-! ### No two rows match one word (R74) -/

/-- Two rows that match one word agree on the bits under both masks. -/
theorem bits_agree_of_admits {r q : OpcodeRow} {w : Word} (hr : r.admits w = true) (hq : q.admits w = true) :
    r.bits &&& q.mask = q.bits &&& r.mask := by
  rw [← admits_iff.mp hr, ← admits_iff.mp hq]
  ac_rfl

theorem opcodeMap_bits_disagree : opcodeMap.Pairwise fun r q => r.bits &&& q.mask ≠ q.bits &&& r.mask := by
  decide

/-- Settles O4: of two different rows each has a bit under both masks that the other has not, so the admitting rows are not two. -/
theorem opcodeRowsDisjoint : Obligations.OpcodeRowsDisjoint := by
  intro w
  rw [List.countP_eq_length_filter]
  have hpair := opcodeMap_bits_disagree.filter (·.admits w)
  have hadm : ∀ r ∈ opcodeMap.filter (·.admits w), r.admits w = true := fun r hr => (List.mem_filter.mp hr).2
  generalize opcodeMap.filter (·.admits w) = l at hpair hadm
  match l with
  | [] | [_] => simp
  | r :: q :: _ =>
    have hdisagree := List.rel_of_pairwise_cons hpair (by simp : q ∈ q :: _)
    exact absurd (bits_agree_of_admits (hadm r (by simp)) (hadm q (by simp))) hdisagree

/-! ### The illegal words (R76) -/

theorem decodeClass0_error_iff {w : Word} : (∃ e, decodeClass0 w = .error e) ↔ w ≠ 0x00E0 ∧ w ≠ 0x00EE := by
  simp only [ne_eq, ← BitVec.toNat_inj]
  unfold decodeClass0
  split <;> simp_all

theorem decodeSkip_error_iff {w : Word} {i : Instr} : (∃ e, decodeSkip w i = .error e) ↔ fieldN w ≠ 0 := by
  simp only [ne_eq, ← BitVec.toNat_inj]
  unfold decodeSkip
  split <;> simp_all

theorem decodeClass8_error_iff {w : Word} :
    (∃ e, decodeClass8 w = .error e) ↔ fieldN w ∈ [0x8, 0x9, 0xA, 0xB, 0xC, 0xD, 0xF] := by
  have hlt := (fieldN w).isLt
  simp only [List.mem_cons, List.not_mem_nil, or_false, ← BitVec.toNat_inj]
  unfold decodeClass8
  split
  all_goals simp_all
  omega

theorem decodeClassE_error_iff {w : Word} : (∃ e, decodeClassE w = .error e) ↔ fieldNN w ∉ [0x9E, 0xA1] := by
  simp only [List.mem_cons, List.not_mem_nil, or_false, ← BitVec.toNat_inj]
  unfold decodeClassE
  split <;> simp_all

theorem decodeClassF_error_iff {w : Word} :
    (∃ e, decodeClassF w = .error e) ↔ fieldNN w ∉ [0x07, 0x0A, 0x15, 0x18, 0x1E, 0x29, 0x33, 0x55, 0x65] := by
  simp only [List.mem_cons, List.not_mem_nil, or_false, ← BitVec.toNat_inj]
  unfold decodeClassF
  split <;> simp_all

/-- Settles O5: the words that do not decode, class by class (the k-th branch is class `k - 1`), each clause from its class's own dispatch. -/
theorem illegalWordsAsListed : Obligations.IllegalWordsAsListed := by
  intro w
  rw [not_wellFormedWord_iff_error]
  have hlt := (fieldC w).isLt
  simp only [← BitVec.toNat_inj (x := fieldC w)]
  unfold decode
  split
  case h_1 hc => simp [hc, decodeClass0_error_iff]
  case h_6 hc => simp [hc, decodeSkip_error_iff]
  case h_9 hc => simp [hc, decodeClass8_error_iff]
  case h_10 hc => simp [hc, decodeSkip_error_iff]
  case h_15 hc => simp [hc, decodeClassE_error_iff]
  case h_16 =>
    have hc : (fieldC w).toNat = 0xF := by simp only [imp_false] at *; omega
    simp [hc, decodeClassF_error_iff]
  all_goals next hc => simp [hc]

end Sys2Proof
end

section
/-! SUPPORT. Which fields an instruction can write, said once over all 34: the frames of the whole instruction set (R21 to R30, R104). -/

namespace Sys2Proof.Machine

/-- `s` with the fields that the instruction may write taken from `t`. -/
def overwritten : Instr → State → State → State
  | .cls, s, t => { s with display := t.display }
  | .drw _ _ _, s, t => { s with display := t.display, v := t.v }
  | .ret, s, t | .call _, s, t => { s with sp := t.sp, pc := t.pc, stack := t.stack }
  | .jp _, s, t | .jpV0 _, s, t => { s with pc := t.pc }
  | .seImm _ _, s, t | .sneImm _ _, s, t | .seReg _ _, s, t | .sneReg _ _, s, t | .skp _, s, t | .sknp _, s, t =>
    { s with pc := t.pc }
  | .ldI _, s, t | .addI _, s, t | .ldF _, s, t => { s with i := t.i }
  | .ldB _, s, t => { s with mem := t.mem }
  | .dump _, s, t => { s with mem := t.mem, i := t.i }
  | .load _, s, t => { s with v := t.v, i := t.i }
  | .ldDtVx _, s, t => { s with dt := t.dt }
  | .ldStVx _, s, t => { s with st := t.st }
  | .ldVxK _, s, _ => s
  | .rnd _ _, s, t => { s with v := t.v, draws := t.draws }
  | .ldImm _ _, s, t | .addImm _ _, s, t | .ldReg _ _, s, t | .ldVxDt _, s, t => { s with v := t.v }
  | .orReg _ _, s, t | .andReg _ _, s, t | .xorReg _ _, s, t => { s with v := t.v }
  | .addReg _ _, s, t | .subReg _ _, s, t | .shr _ _, s, t | .subnReg _ _, s, t | .shl _ _, s, t => { s with v := t.v }

theorem exec_overwrites {i : Instr} {s t : State} (h : exec i s = .next t) :
    t = { overwritten i s t with mode := t.mode } := by
  rcases exec_cases i s t h with ⟨e, rfl, _, _⟩ | heff
  case inl => cases i <;> rfl
  case inr =>
    cases i
    case ret | call => rw [heff.2]; rfl
    case cls | jp | jpV0 | ldI | addI | ldF | ldDtVx | ldStVx | ldVxK => rw [heff]; rfl
    all_goals rw [heff.1]; rfl

/-- Settles O53: none of the six fields is among those an instruction may overwrite. -/
theorem instructionsNeverWriteKeys : Obligations.InstructionsNeverWriteKeys := by
  intro i s t h
  rw [exec_overwrites h]
  cases i <;> exact ⟨rfl, rfl, rfl, rfl, rfl, rfl⟩

theorem exec_params {i : Instr} {s t : State} (h : exec i s = .next t) : t.params = s.params :=
  have ⟨_, _, hparams, _⟩ := instructionsNeverWriteKeys i s t h
  hparams

/-- Settles O51: only FX33 and FX55 have memory among the fields they may overwrite. -/
theorem onlyStoresWriteMemory : Obligations.OnlyStoresWriteMemory := by
  intro i s t h hi
  have hmem : t.mem = s.mem := by
    rw [exec_overwrites h]
    cases i
    case ldB x => exact absurd rfl (hi x).1
    case dump x => exact absurd rfl (hi x).2
    all_goals rfl
  exact readByte_congr hmem (exec_params h)

/-- Settles O52: only 00E0 and DXYN have the display among the fields they may overwrite. -/
theorem onlyClearAndDrawWriteDisplay : Obligations.OnlyClearAndDrawWriteDisplay := by
  intro i s t h hcls hdrw
  rw [exec_overwrites h]
  cases i
  case cls => exact absurd rfl hcls
  case drw x y n => exact absurd rfl (hdrw x y n)
  all_goals rfl

/-- Settles O54: only 2NNN and 00EE have the stack and SP among the fields they may overwrite. -/
theorem onlyCallAndRetTouchStack : Obligations.OnlyCallAndRetTouchStack := by
  intro i s t h hret hcall
  rw [exec_overwrites h]
  cases i
  case ret => exact absurd rfl hret
  case call nnn => exact absurd rfl (hcall nnn)
  all_goals exact ⟨rfl, rfl⟩

/-- Settles O57: only the jumps, the call, the return and the skips have PC among the fields they may overwrite. -/
theorem sequentialKeepsPc : Obligations.SequentialKeepsPc := by
  intro i s t h hret hjump himm hreg hkey
  rw [exec_overwrites h]
  cases i
  case ret => exact absurd rfl hret
  case jp nnn => exact absurd rfl (hjump nnn).1
  case call nnn => exact absurd rfl (hjump nnn).2.1
  case jpV0 nnn => exact absurd rfl (hjump nnn).2.2
  case seImm x nn => exact absurd rfl (himm x nn).1
  case sneImm x nn => exact absurd rfl (himm x nn).2
  case seReg x y => exact absurd rfl (hreg x y).1
  case sneReg x y => exact absurd rfl (hreg x y).2
  case skp x => exact absurd rfl (hkey x).1
  case sknp x => exact absurd rfl (hkey x).2
  all_goals rfl

theorem exec_i {i : Instr} {s t : State} (h : exec i s = .next t) (hldI : ∀ nnn, i ≠ .ldI nnn)
    (hi : ∀ x, i ≠ .addI x ∧ i ≠ .ldF x ∧ i ≠ .dump x ∧ i ≠ .load x) : t.i = s.i := by
  rw [exec_overwrites h]
  cases i
  case ldI nnn => exact absurd rfl (hldI nnn)
  case addI x => exact absurd rfl (hi x).1
  case ldF x => exact absurd rfl (hi x).2.1
  case dump x => exact absurd rfl (hi x).2.2.1
  case load x => exact absurd rfl (hi x).2.2.2
  all_goals rfl

theorem exec_transfer_i {i : Instr} {s t : State} {x : RegIdx} (hx : i = .dump x ∨ i = .load x)
    (h : exec i s = .next t) (hq : s.params.indexQuirk = .unchanged) : t.i = s.i := by
  rcases exec_cases i s t h with ⟨e, rfl, _, _⟩ | heff
  case inl => rfl
  case inr =>
    rcases hx with rfl | rfl
    · exact heff.2.1 hq
    · exact heff.2.1 hq

/-- Settles O55: I, DT and ST against the fields each instruction may overwrite; for FX55 and FX65 the quirk decides. -/
theorem specialRegisterWriters : Obligations.SpecialRegisterWriters := by
  intro i s t h
  refine ⟨exec_i h, fun hq hldI hi => ?index, fun hdt => ?delay, fun hst => ?sound⟩
  case index =>
    by_cases hx : ∃ x, i = .dump x ∨ i = .load x
    · obtain ⟨x, hx⟩ := hx
      exact exec_transfer_i hx h hq
    · simp only [not_exists, not_or] at hx
      exact exec_i h hldI fun x => ⟨(hi x).1, (hi x).2, hx x⟩
  case delay =>
    rw [exec_overwrites h]
    cases i
    case ldDtVx x => exact absurd rfl (hdt x)
    all_goals rfl
  case sound =>
    rw [exec_overwrites h]
    cases i
    case ldStVx x => exact absurd rfl (hst x)
    all_goals rfl

/-- Settles O56: an instruction that may overwrite registers keeps those that `writtenRegs` does not list, by its effect. -/
theorem generalRegisterWriters : Obligations.GeneralRegisterWriters := by
  intro i s t h
  rcases exec_cases i s t h with ⟨e, rfl, _, _⟩ | heff
  case inl => exact fun _ _ => rfl
  case inr =>
    have hv := congrArg State.v (exec_overwrites h)
    cases i
    case ldImm | addImm | ldReg | rnd | drw | ldVxDt => exact heff.2
    case orReg | andReg | xorReg | addReg | subReg | shr | subnReg | shl => exact heff.2
    case load => exact heff.2.2
    all_goals exact fun r _ => getV_congr hv r

end Sys2Proof.Machine
end

section
/-! SUPPORT. The invariant through an instruction, a cycle and a step (R26, R32, R36, R134). -/

namespace Sys2Proof.Machine

/-! ### Where control flow can go (R131 to R134) -/

/-- The sum of a 12-bit and an 8-bit value fits a word, so BNNN neither wraps nor masks (D10, D17). -/
theorem jumpTarget_toNat (nnn : Addr) (b : Byte) : (zextAddr nnn + zextByte b).toNat = nnn.toNat + b.toNat := by
  have hb : (zextByte b).toNat = b.toNat := BitVec.toNat_setWidth_of_le (by decide)
  rw [BitVec.toNat_add, zextAddr_toNat, hb, Nat.mod_eq_of_lt (by omega)]

theorem State.Inv.top_le {s : State} (hs : s.Inv) : s.top.toNat ≤ 0x1000 := by
  rw [State.top, List.getD_eq_getElem?_getD]
  cases hget : s.stack[s.sp - 1]?
  case none => decide
  case some w => exact hs.stackEntries w (List.mem_of_getElem? hget)

/-! ### An instruction keeps the invariant -/

theorem exec_memWf {i : Instr} {s t : State} (h : exec i s = .next t) (hs : s.MemWf) : t.MemWf := by
  rcases exec_cases i s t h with ⟨e, rfl, _, _⟩ | heff
  case inl => exact hs
  case inr =>
    have hparams := exec_params h
    have hmem := congrArg State.mem (exec_overwrites h)
    cases i
    case ldB => exact heff.2 hs
    case dump => exact heff.2.2 hs
    all_goals exact (congrArg₂ (fun p m => Memory.wf (unlistedByte p) m) hparams hmem).trans hs

/-- BNNN reaches farthest, 0xFFF + 0xFF (R134). -/
theorem exec_pc_le {i : Instr} {s t : State} (hs : s.Inv) (hpc : s.pc.toNat ≤ 0x1000) (h : exec i s = .next t) :
    t.pc.toNat ≤ 0x10FE := by
  rcases exec_cases i s t h with ⟨e, rfl, _, _⟩ | heff
  case inl => exact hs.pc
  case inr =>
    have hskip (htwo : t.pc = s.pc ∨ t.pc = s.pc + 2) : t.pc.toNat ≤ 0x10FE := by
      rcases htwo with htwo | htwo <;> rw [htwo]
      · exact hs.pc
      · rw [hs.pc_add_two_toNat]; omega
    have hkept := congrArg State.pc (exec_overwrites h)
    cases i
    case jp nnn => rw [heff, zextAddr_toNat]; omega
    case call nnn => rw [heff.2, zextAddr_toNat]; omega
    case jpV0 nnn => rw [heff, jumpTarget_toNat]; omega
    case ret => rw [heff.2]; exact hs.top_le.trans (by decide)
    case seImm | sneImm | seReg | sneReg | skp | sknp => exact hskip heff.2
    all_goals exact hkept ▸ hs.pc

/-- The call stack's part of the invariant: CALL pushes a PC within memory's end, RET leaves the entries (R131, R133). -/
theorem exec_stack_bounds {i : Instr} {s t : State} (hs : s.Inv) (hpc : s.pc.toNat ≤ 0x1000)
    (h : exec i s = .next t) : t.stack.length = s.params.stackDepth ∧ t.sp ≤ s.params.stackDepth ∧
      ∀ w ∈ t.stack, w.toNat ≤ 0x1000 := by
  rcases exec_cases i s t h with ⟨e, rfl, _, _⟩ | heff
  case inl => exact ⟨hs.stackLength, hs.sp, hs.stackEntries⟩
  case inr =>
    have hstack := congrArg State.stack (exec_overwrites h)
    have hsp := congrArg State.sp (exec_overwrites h)
    cases i
    case ret =>
      rw [heff.2]
      exact ⟨hs.stackLength, (Nat.sub_le _ _).trans hs.sp, hs.stackEntries⟩
    case call nnn =>
      obtain ⟨hroom, ht⟩ := heff
      rw [ht]
      refine ⟨List.length_set.trans hs.stackLength, Nat.lt_of_le_of_ne hs.sp hroom, fun w hw => ?_⟩
      rcases List.mem_or_eq_of_mem_set hw with hw | rfl
      · exact hs.stackEntries w hw
      · exact hpc
    all_goals exact ⟨hstack ▸ hs.stackLength, hsp ▸ hs.sp, hstack ▸ hs.stackEntries⟩

theorem exec_inv {i : Instr} {s t : State} (hs : s.Inv) (hpc : s.pc.toNat ≤ 0x1000) (h : exec i s = .next t) :
    t.Inv := by
  obtain ⟨_, hcredit, hparams, hphase, _, _⟩ := instructionsNeverWriteKeys i s t h
  obtain ⟨hlength, hsp, hentries⟩ := exec_stack_bounds hs hpc h
  exact {
    params := hparams ▸ hs.params
    mem := exec_memWf h hs.mem
    pc := exec_pc_le hs hpc h
    stackLength := hparams ▸ hlength
    sp := hparams ▸ hsp
    stackEntries := hentries
    credit := hcredit ▸ hs.credit
    left := by rw [hphase, hparams]; exact hs.left }

/-! ### A cycle keeps the invariant -/

/-- The invariant of a state that differs in PC and the fields the invariant does not speak of. -/
theorem State.Inv.of_pc {s t : State} (hs : s.Inv) (hpc : t.pc.toNat ≤ 0x10FE)
    (ht : (t.params, t.mem, t.stack, t.sp, t.credit, t.phase) = (s.params, s.mem, s.stack, s.sp, s.credit, s.phase)) :
    t.Inv := by
  simp only [Prod.mk.injEq] at ht
  obtain ⟨hparams, hmem, hstack, hsp, hcredit, hphase⟩ := ht
  constructor
  case pc => exact hpc
  all_goals simp only [hparams, hmem, hstack, hsp, hcredit, hphase]
  case params => exact hs.params
  case mem => exact hs.mem
  case stackLength => exact hs.stackLength
  case sp => exact hs.sp
  case stackEntries => exact hs.stackEntries
  case credit => exact hs.credit
  case left => exact hs.left

theorem fetchError_none {s : State} (h : s.fetchError = none) :
    s.pc.toNat ≤ 0xFFE ∧ ¬(s.params.misalignedPc = .fault ∧ s.pc.toNat % 2 = 1) := by
  unfold State.fetchError at h
  split at h
  · cases h
  · next hrange =>
    split at h
    · cases h
    · next halign => exact ⟨Nat.le_of_succ_le_succ (rangeError_none.mp hrange), halign⟩

theorem advancePc_pc_le {s : State} (h : s.fetchError = none) : s.advancePc.pc.toNat ≤ 0x1000 := by
  obtain ⟨hpc, _⟩ := fetchError_none h
  rw [advancePc_pc]
  bv_omega

theorem advancePc_inv {s : State} (hs : s.Inv) (h : s.fetchError = none) : s.advancePc.Inv :=
  hs.of_pc ((advancePc_pc_le h).trans (by decide)) rfl

theorem raise_inv {s : State} (hs : s.Inv) (e : FatalError) : (s.raise e).Inv := hs.of_pc hs.pc rfl

theorem waitCycle_inv {s : State} (hs : s.Inv) (x : RegIdx) (snap : Keys) : (s.waitCycle x snap).Inv := by
  by_cases hnew : s.newlyPressed snap = []
  · rw [waitCycle_none hnew]; exact hs.of_pc hs.pc rfl
  · obtain ⟨k, _, hk⟩ := waitCycle_some (x := x) hnew
    rw [hk]; exact hs.of_pc hs.pc rfl

theorem cycle_inv {s t : State} (hs : s.Inv) (h : cycle s = .next t) : t.Inv := by
  rcases cycle_cases h with ⟨_, _, rfl⟩ | ⟨x, snap, _, rfl⟩ | ⟨_, ⟨e, _, rfl⟩ | ⟨hf, ⟨_, _, rfl⟩ | ⟨i, _, hexec⟩⟩⟩
  case inl => exact hs
  case inr.inl => exact waitCycle_inv hs x snap
  case inr.inr.inl => exact raise_inv hs e
  case inr.inr.inr.inl => exact raise_inv (advancePc_inv hs hf) _
  case inr.inr.inr.inr => exact exec_inv (advancePc_inv hs hf) (advancePc_pc_le hf) hexec

/-! ### A step keeps the invariant -/

theorem hostTurn_inv {s : State} (hs : s.Inv) : s.hostTurn.Inv := hs.of_pc hs.pc rfl

theorem setPhase_inv {s : State} (hs : s.Inv) {p : Phase} (hp : p.left ≤ (59 + s.params.clockHz) / 60) :
    (s.setPhase p).Inv := { hs with left := hp }

theorem openFrame_inv {s : State} (hs : s.Inv) : s.openFrame.Inv := by
  have hcredit := hs.credit
  rw [openFrame_eq]
  exact { hs with
    credit := Nat.mod_lt _ (by decide)
    left := Nat.div_le_div_right (Nat.add_le_add_right (Nat.le_of_lt_succ hcredit) _) }

theorem closeFrame_inv {s : State} (hs : s.Inv) : s.closeFrame.Inv := by
  rw [closeFrame_eq]
  exact { hs with left := Nat.zero_le _ }

/-- Settles O49: each branch of a step keeps the invariant, a cycle by what its instruction, its wait or its halt writes. -/
theorem stepKeepsInvariant : Obligations.StepKeepsInvariant := by
  intro s t hs h
  have hturn := hostTurn_inv hs
  obtain ⟨_, ⟨_, rfl⟩ | ⟨_, ⟨_, rfl⟩ | ⟨_, rfl⟩ | ⟨n, hphase, hcycle⟩⟩⟩ := step_cases h
  case inl => exact hturn
  case inr.inl => exact openFrame_inv hturn
  case inr.inr.inl => exact closeFrame_inv hturn
  case inr.inr.inr =>
    have hleft : n + 1 ≤ (59 + s.params.clockHz) / 60 := by simpa [hphase, Phase.left] using hs.left
    exact cycle_inv (setPhase_inv hturn (p := .inFrame n) (Nat.le_of_succ_le hleft)) hcycle

end Sys2Proof.Machine
end

section
/-! SUPPORT. What a cycle and a step are, place by place: the fetch and its errors, the three places of a frame, the halted machine (R100 to R107). -/

namespace Sys2Proof.Machine

/-! ### A next state always (R243) -/

theorem cycle_next (s : State) : ∃ t, cycle s = .next t := by
  unfold cycle
  split
  case h_1 =>
    unfold runCycle
    split
    · exact ⟨_, rfl⟩
    · split
      · exact ⟨_, rfl⟩
      · exact exec_next _ _
  case h_2 => exact ⟨_, rfl⟩
  case h_3 => exact ⟨_, rfl⟩

/-! ### What a step is, place by place (R106, R107) -/

theorem step_halted {s : State} (hv : s.params.valid = true) (hh : s.isHalted = true) :
    step s = .next s.hostTurn := by
  simp [step, scheduledStep, State.proceed, hv, hh]

theorem step_between {s : State} (hv : s.params.valid = true) (hh : s.isHalted = false) (hp : s.phase = .between) :
    step s = .next s.hostTurn.openFrame := by
  simp [step, scheduledStep, State.proceed, hv, hh, hp]

theorem step_lastOfFrame {s : State} (hv : s.params.valid = true) (hh : s.isHalted = false)
    (hp : s.phase = .inFrame 0) : step s = .next s.hostTurn.closeFrame := by
  simp [step, scheduledStep, State.proceed, hv, hh, hp]

theorem step_inFrame {s : State} {n : Nat} (hv : s.params.valid = true) (hh : s.isHalted = false)
    (hp : s.phase = .inFrame (n + 1)) : step s = cycle (s.hostTurn.setPhase (.inFrame n)) := by
  simp [step, scheduledStep, State.proceed, hv, hh, hp]

/-- Settles O50: a halt, an opening and a closing are next states as they stand, and a cycle answers one. -/
theorem everyStepAnswersNext : Obligations.EveryStepAnswersNext := by
  intro s hv
  match hh : s.isHalted, hp : s.phase with
  | true, _ => exact ⟨_, step_halted hv hh⟩
  | false, .between => exact ⟨_, step_between hv hh hp⟩
  | false, .inFrame 0 => exact ⟨_, step_lastOfFrame hv hh hp⟩
  | false, .inFrame (n + 1) => exact step_inFrame hv hh hp ▸ cycle_next _

/-- Settles O60: the three places of a frame, and the two ends of a frame field by field under each tick order. -/
theorem stepsOpenAndCloseFrames : Obligations.StepsOpenAndCloseFrames := by
  intro s
  refine ⟨fun hv hh => ⟨step_between hv hh, step_lastOfFrame hv hh, fun n hp => step_inFrame hv hh hp⟩,
    ?opening, ?closing⟩
  case opening => unfold State.openFrame; cases s.params.tickOrder <;> rfl
  case closing => unfold State.closeFrame; cases s.params.tickOrder <;> rfl

/-! ### The fetch (R101, R102) -/

theorem fetchError_of_range {s : State} (h : 0xFFE < s.pc.toNat) :
    s.fetchError = some (.addressOutOfRange s.pc none (max s.pc.toNat 0x1000)) := by
  simp [State.fetchError, rangeError_some.mpr ⟨Nat.succ_lt_succ h, rfl⟩]

theorem fetchError_of_odd {s : State} (h : s.pc.toNat ≤ 0xFFE) (hfault : s.params.misalignedPc = .fault)
    (hodd : s.pc.toNat % 2 = 1) : s.fetchError = some (.misalignedPC s.pc) := by
  simp [State.fetchError, rangeError_none.mpr (Nat.succ_le_succ h), hfault, hodd]

theorem fetchError_of_fetchable {s : State} (h : s.pc.toNat ≤ 0xFFE)
    (halign : s.params.misalignedPc = .allow ∨ s.pc.toNat % 2 = 0) : s.fetchError = none := by
  rcases halign with halign | halign <;>
    simp [State.fetchError, rangeError_none.mpr (Nat.succ_le_succ h), halign]

theorem cycle_fetchError {s : State} {e : FatalError} (hm : s.mode = .running) (he : s.fetchError = some e) :
    cycle s = .next (s.raise e) := by
  simp [cycle, hm, runCycle, he]

theorem cycle_unknown {s : State} {e : DecodeError} (hm : s.mode = .running) (hf : s.fetchError = none)
    (hd : decode s.fetchWord = .error e) :
    cycle s = .next (s.advancePc.raise (.unknownOpcode s.pc s.fetchWord)) := by
  simp [cycle, hm, runCycle, hf, hd]

theorem cycle_exec {s : State} {i : Instr} (hm : s.mode = .running) (hf : s.fetchError = none)
    (hd : decode s.fetchWord = .ok i) : cycle s = exec i s.advancePc := by
  simp [cycle, hm, runCycle, hf, hd]

/-- Settles O35: the range comes before the alignment and both before the decoder; PC advances only where the fetch succeeds. -/
theorem fetchErrorsInOrder : Obligations.FetchErrorsInOrder := by
  intro s hm
  refine ⟨fun h => ?range, fun h hfault hodd => ?odd, fun h halign w hw hbad => ?unknown⟩
  case range => exact cycle_fetchError hm (fetchError_of_range h)
  case odd => exact cycle_fetchError hm (fetchError_of_odd h hfault hodd)
  case unknown =>
    obtain ⟨e, he⟩ := not_wellFormedWord_iff_error.mp hbad
    subst hw
    exact cycle_unknown hm (fetchError_of_fetchable h halign) he

/-- Settles O33: the step is the cycle after the host's turn, and the host's turn leaves what the fetch reads. -/
theorem stepRunsDecodedInstruction : Obligations.StepRunsDecodedInstruction := by
  intro s i n hv hm hp hpc halign hd
  have hh : s.isHalted = false := by simp [State.isHalted, hm]
  rw [step_inFrame hv hh hp]
  exact cycle_exec (s := s.hostTurn.setPhase (.inFrame n)) hm (fetchError_of_fetchable hpc halign) hd

/-- Settles O36: each of the three asks for the mode first; in a step the host's turn has come before. -/
theorem haltedChangesNothing : Obligations.HaltedChangesNothing := by
  intro s e hm
  have hh : s.isHalted = true := (isHalted_iff s).mpr ⟨e, hm⟩
  refine ⟨?inCycle, ?inFrame, fun hv => ?inStep⟩
  case inCycle => simp [cycle, hm]
  case inFrame => simp [frame, hh]
  case inStep => exact step_halted hv hh

/-- Settles O34: the host's turn writes keys, opening and closing a frame write the scheduler's fields and the timers. -/
theorem schedulerKeepsTheCore : Obligations.SchedulerKeepsTheCore := by
  intro s t ht
  simp only [List.mem_cons, List.not_mem_nil, or_false] at ht
  rcases ht with rfl | rfl | rfl
  case inl => exact ⟨fun _ _ => rfl, fun _ => rfl, rfl, rfl, ⟨rfl, rfl⟩, rfl, rfl, rfl, rfl⟩
  case inr.inl => rw [openFrame_eq]; exact ⟨fun _ _ => rfl, fun _ => rfl, rfl, rfl, ⟨rfl, rfl⟩, rfl, rfl, rfl, rfl⟩
  case inr.inr => rw [closeFrame_eq]; exact ⟨fun _ _ => rfl, fun _ => rfl, rfl, rfl, ⟨rfl, rfl⟩, rfl, rfl, rfl, rfl⟩

end Sys2Proof.Machine
end

section
/-! SUPPORT. What a cycle leaves to the scheduler and how a machine halts (R5, R106, R242, R243). -/

namespace Sys2Proof.Machine

/-! ### A cycle leaves the scheduler's fields and the parameters -/

theorem waitCycle_outsideKept (s : State) (x : RegIdx) (snap : Keys) : OutsideKept s (s.waitCycle x snap) := by
  by_cases hnew : s.newlyPressed snap = []
  · rw [waitCycle_none hnew]; exact ⟨rfl, rfl, rfl, rfl, rfl, rfl⟩
  · obtain ⟨k, _, hk⟩ := waitCycle_some (x := x) hnew
    rw [hk]; exact ⟨rfl, rfl, rfl, rfl, rfl, rfl⟩

theorem cycle_outsideKept {s t : State} (h : cycle s = .next t) : OutsideKept s t := by
  rcases cycle_cases h with ⟨_, _, rfl⟩ | ⟨x, snap, _, rfl⟩ | ⟨_, ⟨_, _, rfl⟩ | ⟨_, ⟨_, _, rfl⟩ | ⟨i, _, hexec⟩⟩⟩
  case inr.inl => exact waitCycle_outsideKept s x snap
  case inr.inr.inr.inr => exact instructionsNeverWriteKeys i s.advancePc t hexec
  all_goals exact ⟨rfl, rfl, rfl, rfl, rfl, rfl⟩

/-- Settles O59: neither the host's turn, nor an end of a frame, nor a cycle writes the parameters. -/
theorem parametersFixed : Obligations.ParametersFixed := by
  intro s t h
  obtain ⟨_, ⟨_, rfl⟩ | ⟨_, ⟨_, rfl⟩ | ⟨_, rfl⟩ | ⟨n, _, hcycle⟩⟩⟩ := step_cases h
  case inl => rfl
  case inr.inl => exact openFrame_params _
  case inr.inr.inl => exact closeFrame_params _
  case inr.inr.inr =>
    obtain ⟨_, _, hparams, _⟩ := cycle_outsideKept hcycle
    exact hparams

/-! ### How an instruction halts (R242, R243) -/

/-- An effect leaves the mode or begins a key-wait: it halts nothing. -/
theorem ExecEffect.not_halted {i : Instr} {s t : State} (heff : ExecEffect i s t) (hs : s.isHalted = false) :
    t.isHalted = false := by
  have hkept (hm : t.mode = s.mode) : t.isHalted = false := by rw [State.isHalted, hm]; exact hs
  cases i
  case ldVxK => rw [heff]; rfl
  case ret | call => exact hkept (by rw [heff.2])
  case cls | jp | jpV0 | ldI | addI | ldF | ldDtVx | ldStVx => exact hkept (by rw [heff])
  all_goals exact hkept (by rw [heff.1])

/-- Settles O37: an effect does not halt, so the answer is the raised error, whose record the case lemma gives. -/
theorem instructionErrorsArePrecise : Obligations.InstructionErrorsArePrecise := by
  intro i s t e hs h hm
  rcases exec_cases i s t h with ⟨e', rfl, hpc, hop⟩ | heff
  case inl =>
    obtain rfl : e' = e := Mode.halted.inj hm
    exact ⟨rfl, hpc, hop⟩
  case inr =>
    have hhalted : t.isHalted = true := (isHalted_iff t).mpr ⟨e, hm⟩
    exact absurd hhalted (by simp [heff.not_halted hs])

/-! ### The step that halts, and those after it (R106, R243) -/

theorem waitCycle_not_halted (s : State) (x : RegIdx) (snap : Keys) : (s.waitCycle x snap).isHalted = false := by
  by_cases hnew : s.newlyPressed snap = []
  · rw [waitCycle_none hnew]; rfl
  · obtain ⟨k, _, hk⟩ := waitCycle_some (x := x) hnew
    rw [hk]; rfl

/-- The cycle that halts a machine writes its mode, and PC at most (R243). -/
theorem cycle_halts_only {s t : State} (hs : s.isHalted = false) (h : cycle s = .next t) (ht : t.isHalted = true) :
    t = { s with mode := t.mode, pc := t.pc } := by
  rcases cycle_cases h with ⟨_, _, rfl⟩ | ⟨x, snap, _, rfl⟩ | ⟨_, ⟨_, _, rfl⟩ | ⟨_, ⟨_, _, rfl⟩ | ⟨i, _, hexec⟩⟩⟩
  case inr.inl => exact absurd ht (by simp [waitCycle_not_halted])
  case inr.inr.inr.inr =>
    obtain ⟨e, hm⟩ := (isHalted_iff t).mp ht
    obtain ⟨heq, _, _⟩ := instructionErrorsArePrecise i s.advancePc t e hs hexec hm
    rw [heq]; rfl
  all_goals rfl

theorem run_succ_of_next {s u : State} (k : Nat) (h : step s = .next u) :
    Host.Core.run core (k + 1) s = Host.Core.run core k u := by
  have hstep : core.step s = .next u := h
  simp [Host.Core.run, hstep]

theorem exists_step_of_run_succ {s t : State} {k : Nat} (h : Host.Core.run core (k + 1) s = .next t) :
    ∃ u, step s = .next u ∧ Host.Core.run core k u = .next t := by
  cases hstep : step s
  case next u => exact ⟨u, rfl, run_succ_of_next k hstep ▸ h⟩
  all_goals
    have hcore : core.step s = _ := hstep
    simp [Host.Core.run, hcore] at h

theorem run_halted {s t : State} (k : Nat) (hs : s.isHalted = true) (h : Host.Core.run core k s = .next t) :
    t = { s with keys := t.keys, turns := t.turns } := by
  induction k generalizing s with
  | zero => cases h; rfl
  | succ k ih =>
    obtain ⟨u, hu, hrun⟩ := exists_step_of_run_succ h
    obtain ⟨_, ⟨_, rfl⟩ | ⟨hne, _⟩⟩ := step_cases hu
    · exact ih (s := s.hostTurn) hs hrun
    · exact absurd hs (by simp [hne])

/-- Settles O38: only a cycle can halt, and it writes neither timers nor the redraw count; a halted machine runs on the host's turns alone. -/
theorem fatalErrorEndsTheFrame : Obligations.FatalErrorEndsTheFrame := by
  intro s t hs h ht
  obtain ⟨_, ⟨hh, _⟩ | ⟨_, ⟨_, rfl⟩ | ⟨_, rfl⟩ | ⟨n, _, hcycle⟩⟩⟩ := step_cases h
  case inl => exact absurd hh (by simp [hs])
  case inr.inl => exact absurd ht (by simp [hs])
  case inr.inr.inl => exact absurd ht (by simp [hs])
  case inr.inr.inr =>
    rw [cycle_halts_only (s := s.hostTurn.setPhase (.inFrame n)) hs hcycle ht]
    refine ⟨rfl, rfl, rfl, fun k u hu => ?_⟩
    rw [run_halted k ?_ hu]
    · exact ⟨rfl, rfl, rfl, rfl⟩
    · exact ht

end Sys2Proof.Machine
end

section
/-! SUPPORT. Timer ticks, and the host's key calls (R109, R114). -/

namespace Sys2Proof.Machine

/-- Settles O39: both timers are `tickDown` of their values, and no other field is written. -/
theorem timerTickCountsDown : Obligations.TimerTickCountsDown := by
  intro s
  have hcount (n : Nat) : n - 1 = if n > 0 then n - 1 else 0 := by split <;> omega
  refine ⟨timerTick_eq s, ?delay, ?sound⟩
  case delay => rw [timerTick_dt, tickDown_toNat, ← hcount]
  case sound => rw [timerTick_st, tickDown_toNat, ← hcount]

/-- Settles O40, by induction on the ticks. -/
theorem timersReachZeroOnTime : Obligations.TimersReachZeroOnTime := by
  intro k s
  induction k with
  | zero => exact ⟨rfl, rfl⟩
  | succ k ih =>
    obtain ⟨hdt, hst⟩ := ih
    simp only [Function.iterate_succ_apply', timerTick_dt, timerTick_st, tickDown_toNat, hdt, hst]
    omega

theorem keys_foldl_setKey (calls : List KeyCall) (s : State) :
    (calls.foldl (fun u c => u.setKey c.key c.pressed) s).keys = calls.foldl applyKeyCall s.keys := by
  induction calls generalizing s with
  | nil => rfl
  | cons c rest ih => exact ih (s.setKey c.key c.pressed)

theorem keyDown_setKey (s : State) (k j : RegIdx) (p : Bool) :
    (s.setKey k p).keyDown j = if k = j then p else s.keyDown j := by
  simp only [State.keyDown, State.setKey, applyKeyCall, Vector.getElem_set, BitVec.toNat_inj]

/-- Settles O43: the host's turn is a fold of key writes, each of which sets one key of the vector. -/
theorem hostCallsSetKeysOnly : Obligations.HostCallsSetKeysOnly := by
  intro s
  refine ⟨rfl, (keys_foldl_setKey _ s).symm, fun k p => ⟨?named, fun j hj => ?other, rfl⟩⟩
  case named => rw [keyDown_setKey, if_pos rfl]
  case other => rw [keyDown_setKey, if_neg hj.symm]

end Sys2Proof.Machine
end

section
/-! SUPPORT. A frame as the steps make it, and the cadence of the cycles over many frames (R107, R113). -/

namespace Sys2Proof.Machine

/-! ### The repeat loop of a frame -/

theorem repeatCycles_of_halted {s : State} (n : Nat) (h : s.isHalted = true) : repeatCycles n s = .next s := by
  cases n
  · rfl
  · simp [repeatCycles, h]

theorem repeatCycles_succ {s u : State} {n : Nat} (hs : s.isHalted = false)
    (hc : cycle (s.hostTurn.setPhase (.inFrame n)) = .next u) : repeatCycles (n + 1) s = repeatCycles n u := by
  simp [repeatCycles, hs, hc]

theorem cyclesRun_succ {s u : State} {n : Nat} (hs : s.isHalted = false)
    (hc : cycle (s.hostTurn.setPhase (.inFrame n)) = .next u) : cyclesRun (n + 1) s = 1 + cyclesRun n u := by
  simp [cyclesRun, hs, hc]

/-- The loop leaves what the frame's opening wrote for the frames after it. -/
theorem repeatCycles_keeps {n : Nat} {s t : State} (h : repeatCycles n s = .next t) :
    t.credit = s.credit ∧ t.params = s.params ∧ t.redraws = s.redraws := by
  induction n generalizing s with
  | zero => cases h; exact ⟨rfl, rfl, rfl⟩
  | succ n ih =>
    cases hs : s.isHalted
    case true =>
      rw [repeatCycles_of_halted _ hs] at h
      cases h; exact ⟨rfl, rfl, rfl⟩
    case false =>
      obtain ⟨u, hc⟩ := cycle_next (s.hostTurn.setPhase (.inFrame n))
      obtain ⟨_, hcredit, hparams, _, hredraws, _⟩ := cycle_outsideKept hc
      rw [repeatCycles_succ hs hc] at h
      obtain ⟨hcredit', hparams', hredraws'⟩ := ih h
      exact ⟨hcredit'.trans hcredit, hparams'.trans hparams, hredraws'.trans hredraws⟩

/-- A loop that ends unhalted has called `cycle` every time. -/
theorem cyclesRun_eq {n : Nat} {s t : State} (h : repeatCycles n s = .next t) (ht : t.isHalted = false) :
    cyclesRun n s = n := by
  induction n generalizing s with
  | zero => rfl
  | succ n ih =>
    cases hs : s.isHalted
    case true =>
      rw [repeatCycles_of_halted _ hs] at h
      cases h
      exact absurd hs (by simp [ht])
    case false =>
      obtain ⟨u, hc⟩ := cycle_next (s.hostTurn.setPhase (.inFrame n))
      rw [repeatCycles_succ hs hc] at h
      rw [cyclesRun_succ hs hc, ih h, Nat.add_comm]

/-! ### A frame in steps -/

/-- What `frame` does after its loop: a halted machine stays, any other closes the frame. -/
def State.endFrame (s : State) : State := if s.isHalted then s else s.hostTurn.closeFrame

theorem endFrame_of_halted {s : State} (h : s.isHalted = true) : s.endFrame = s := by simp [State.endFrame, h]

theorem endFrame_of_running {s : State} (h : s.isHalted = false) : s.endFrame = s.hostTurn.closeFrame := by
  simp [State.endFrame, h]

theorem isHalted_endFrame (s : State) : s.endFrame.isHalted = s.isHalted := by
  cases h : s.isHalted
  · simp [endFrame_of_running h, h]
  · simp [endFrame_of_halted h, h]

theorem frame_of_halted {s : State} (h : s.isHalted = true) : frame s = .next s := by simp [frame, h]

theorem frame_of_running {s : State} (h : s.isHalted = false) :
    frame s = mapNext State.endFrame (repeatCycles s.frameCycles s.hostTurn.openFrame) := by
  simp only [frame, h, Bool.false_eq_true, if_false]
  rfl

/-- `k` steps answer `r`, and where `r` is an unhalted state it lies between two frames and `k` is `n`. -/
def StepsAnswer (n k : Nat) (s : State) (r : Result) : Prop :=
  k ≤ n ∧ Host.Core.run core k s = r ∧ ∀ t, r = .next t → t.isHalted = false → k = n ∧ t.phase = .between

theorem stepsAnswer_halted {s : State} (n : Nat) (h : s.isHalted = true) : StepsAnswer n 0 s (.next s) := by
  refine ⟨Nat.zero_le n, rfl, fun t ht hrun => ?_⟩
  cases ht
  exact absurd h (by simp [hrun])

theorem StepsAnswer.step {n k : Nat} {s u : State} {r : Result} (hstep : step s = .next u)
    (h : StepsAnswer n k u r) : StepsAnswer (n + 1) (k + 1) s r := by
  obtain ⟨hk, hrun, hend⟩ := h
  exact ⟨Nat.succ_le_succ hk, (run_succ_of_next k hstep).trans hrun, fun t ht hh =>
    ⟨congrArg Nat.succ (hend t ht hh).1, (hend t ht hh).2⟩⟩

theorem stepsAnswer_restOfFrame {n : Nat} {s : State} (hv : s.params.valid = true) (hp : s.phase = .inFrame n) :
    ∃ k, StepsAnswer (n + 1) k s (mapNext State.endFrame (repeatCycles n s)) := by
  induction n generalizing s with
  | zero =>
    cases hs : s.isHalted
    case true => exact ⟨0, by simpa [repeatCycles, mapNext, endFrame_of_halted hs] using stepsAnswer_halted 1 hs⟩
    case false =>
      have hend : mapNext State.endFrame (repeatCycles 0 s) = .next s.hostTurn.closeFrame := by
        simp [repeatCycles, mapNext, endFrame_of_running hs]
      rw [hend]
      refine ⟨1, StepsAnswer.step (step_lastOfFrame hv hs hp) ⟨Nat.le_refl 0, rfl, fun t ht _ => ⟨rfl, ?_⟩⟩⟩
      cases ht
      exact closeFrame_phase _
  | succ n ih =>
    cases hs : s.isHalted
    case true =>
      rw [repeatCycles_of_halted _ hs]
      exact ⟨0, by simpa [mapNext, endFrame_of_halted hs] using stepsAnswer_halted (n + 2) hs⟩
    case false =>
      obtain ⟨u, hc⟩ := cycle_next (s.hostTurn.setPhase (.inFrame n))
      obtain ⟨_, _, hparams, hphase, _, _⟩ := cycle_outsideKept hc
      obtain ⟨k, hk⟩ := ih (s := u) (hparams ▸ hv) hphase
      rw [repeatCycles_succ hs hc]
      exact ⟨k + 1, hk.step ((step_inFrame hv hs hp).trans hc)⟩

/-- Settles O41: the opening step, then the loop by induction on the cycles left in the frame. -/
theorem stepsMakeOneFrame : Obligations.StepsMakeOneFrame := by
  intro s hv hp
  cases hs : s.isHalted
  case true => exact ⟨0, frame_of_halted hs ▸ stepsAnswer_halted _ hs⟩
  case false =>
    obtain ⟨k, hk⟩ := stepsAnswer_restOfFrame (s := s.hostTurn.openFrame) (by simpa using hv) (openFrame_phase _)
    rw [frame_of_running hs]
    exact ⟨k + 1, hk.step (step_between hv hs hp)⟩

/-! ### The cadence -/

/-- A frame that ends unhalted: all its cycles were run, and it leaves the remainder as credit and one redraw signal. -/
theorem frame_running {s t : State} (h : frame s = .next t) (ht : t.isHalted = false) :
    s.isHalted = false ∧ cyclesRun s.frameCycles s.hostTurn.openFrame = s.frameCycles ∧
      t.credit = (s.credit + s.params.clockHz) % 60 ∧ t.params = s.params ∧ t.redraws = s.redraws + 1 := by
  cases hs : s.isHalted
  case true =>
    rw [frame_of_halted hs] at h
    cases h
    exact absurd hs (by simp [ht])
  case false =>
    rw [frame_of_running hs] at h
    obtain ⟨u, hu, rfl⟩ := mapNext_next.mp h
    rw [isHalted_endFrame] at ht
    obtain ⟨hcredit, hparams, hredraws⟩ := repeatCycles_keeps hu
    rw [endFrame_of_running ht]
    refine ⟨rfl, cyclesRun_eq hu ht, ?_, ?_, ?_⟩
    · simp [hcredit]
    · simp [hparams]
    · simp [hredraws]

theorem runFrames_succ {f : Nat} {s t : State} (h : runFrames (f + 1) s = .next t) :
    ∃ u, frame s = .next u ∧ runFrames f u = .next t := by
  cases hf : frame s <;> simp [runFrames, hf] at h
  case next u => exact ⟨u, rfl, h⟩

theorem runFrames_starts_running {f : Nat} {s t : State} (h : runFrames f s = .next t) (ht : t.isHalted = false) :
    s.isHalted = false := by
  induction f generalizing s with
  | zero => cases h; exact ht
  | succ f ih =>
    obtain ⟨u, hu, hrest⟩ := runFrames_succ h
    exact (frame_running hu (ih hrest)).1

/-- The cadence from any remainder, as the induction over frames needs it. -/
theorem cadence_from_credit {f : Nat} {s t : State} (hcredit : s.credit < 60) (h : runFrames f s = .next t)
    (ht : t.isHalted = false) :
    cyclesInFrames f s = (s.credit + f * s.params.clockHz) / 60 ∧
      t.credit = (s.credit + f * s.params.clockHz) % 60 ∧ t.redraws = s.redraws + f := by
  induction f generalizing s with
  | zero =>
    cases h
    simp [cyclesInFrames, Nat.div_eq_of_lt hcredit, Nat.mod_eq_of_lt hcredit]
  | succ f ih =>
    obtain ⟨u, hu, hrest⟩ := runFrames_succ h
    obtain ⟨hs, hcycles, hc, hp, hr⟩ := frame_running hu (runFrames_starts_running hrest ht)
    obtain ⟨hcycles', hc', hr'⟩ := ih (hc ▸ Nat.mod_lt _ (by decide)) hrest
    have hcount : cyclesInFrames (f + 1) s = s.frameCycles + cyclesInFrames f u := by
      simp [cyclesInFrames, hs, hu, hcycles]
    rw [hcount, hcycles', hc', hr', hc, hp, hr, State.frameCycles, Nat.succ_mul]
    omega

/-- Settles O42: the cadence from credit 0. -/
theorem cadenceLaw : Obligations.CadenceLaw := by
  intro f s t hcredit h ht
  simpa [hcredit] using cadence_from_credit (hcredit ▸ (by decide)) h ht

end Sys2Proof.Machine
end

section
/-! SUPPORT. Jumps, the call and the return (R131 to R134). -/

namespace Sys2Proof.Machine

theorem pcStackFrame_of_eq {s t : State} (ht : t = { s with pc := t.pc, stack := t.stack, sp := t.sp }) :
    PcStackFrame s t := by
  rw [ht]
  exact ⟨fun _ _ => rfl, fun _ => rfl, ⟨rfl, rfl, rfl⟩, rfl, rfl, ⟨rfl, rfl, rfl, rfl, rfl, rfl⟩⟩

theorem exec_ret_empty {s : State} (h : s.sp = 0) :
    exec .ret s = .next (s.raise (.stackUnderflow (s.pc - 2) 0x00EE)) := by
  change execRet s = _
  rw [execRet, if_pos h]; rfl

theorem exec_ret_pop {s : State} (h : s.sp ≠ 0) : exec .ret s = .next (s.drop.setPc s.top) := by
  change execRet s = _
  rw [execRet, if_neg h]

theorem exec_call_full {s : State} (nnn : Addr) (h : s.sp = s.params.stackDepth) :
    exec (.call nnn) s = .next (s.raise (.stackOverflow (s.pc - 2) (encode (.call nnn)))) := by
  change execCall nnn s = _
  rw [execCall, if_pos h]; rfl

theorem exec_call_push {s : State} (nnn : Addr) (h : s.sp ≠ s.params.stackDepth) :
    exec (.call nnn) s = .next ((s.push s.pc).setPc (zextAddr nnn)) := by
  change execCall nnn s = _
  rw [execCall, if_neg h]

/-- With an entry in use the top one lies within the stack, so `top` reads it and not its default. -/
theorem State.Inv.getElem?_top {s : State} (hs : s.Inv) (h : 0 < s.sp) : s.stack[s.sp - 1]? = some s.top := by
  have hlt : s.sp - 1 < s.stack.length := by have := hs.sp; have := hs.stackLength; omega
  rw [State.top, List.getD_eq_getElem?_getD, List.getElem?_eq_getElem hlt, Option.getD_some]

theorem State.Inv.sp_lt_length {s : State} (hs : s.Inv) (h : s.sp ≠ s.params.stackDepth) : s.sp < s.stack.length :=
  hs.stackLength ▸ Nat.lt_of_le_of_ne hs.sp h

theorem encode_call (nnn : Addr) : encode (.call nnn) = 0x2000 ||| nnn.setWidth 16 := packNNN_eq_or 0x2 nnn

/-- Settles O6: RET by the two cases of its test on SP. -/
theorem retPopsOrUnderflows : Obligations.RetPopsOrUnderflows := by
  refine ⟨rfl, fun s h => exec_ret_empty h, fun s hs h => ⟨s.drop.setPc s.top, exec_ret_pop (Nat.ne_of_gt h), ?_⟩⟩
  exact ⟨rfl, hs.getElem?_top h, rfl, pcStackFrame_of_eq rfl⟩

/-- Settles O7: CALL by the two cases of its test on SP; the pushed entry is in bounds by the invariant. -/
theorem callPushesOrOverflows : Obligations.CallPushesOrOverflows := by
  intro nnn
  refine ⟨encode_call nnn, fun s h => encode_call nnn ▸ exec_call_full nnn h, fun s hs h =>
    ⟨(s.push s.pc).setPc (zextAddr nnn), exec_call_push nnn h, ?pushed, fun k hk => ?others, rfl, zextAddr_toNat nnn,
      pcStackFrame_of_eq rfl⟩⟩
  case pushed => exact List.getElem?_set_self (hs.sp_lt_length h)
  case others => exact List.getElem?_set_ne hk.symm

theorem top_push {s : State} (w : Word) (h : s.sp < s.stack.length) : (s.push w).top = w := by
  have hget : (s.push w).stack[(s.push w).sp - 1]? = some w := List.getElem?_set_self h
  rw [State.top, List.getD_eq_getElem?_getD, hget, Option.getD_some]

/-- Settles O8: RET after CALL reads the entry CALL wrote. -/
theorem callThenRetReturns : Obligations.CallThenRetReturns := by
  intro nnn s hs h
  have hne := Nat.ne_of_lt h
  refine ⟨_, _, exec_call_push nnn hne, exec_ret_pop (Nat.succ_ne_zero s.sp), ?_, rfl, pcStackFrame_of_eq rfl⟩
  exact top_push s.pc (hs.sp_lt_length hne)

/-- Settles O9: both jumps are one write of PC, neither sum reaching 2^16. -/
theorem jumpsSetPc : Obligations.JumpsSetPc := by
  intro nnn s
  refine ⟨⟨_, rfl, ?jp, pcFrame_setPc s _⟩, ⟨_, rfl, ?jpV0, pcFrame_setPc s _⟩⟩
  case jp => exact zextAddr_toNat nnn
  case jpV0 => exact jumpTarget_toNat nnn (s.getV 0)

end Sys2Proof.Machine
end

section
/-! SUPPORT. Register arithmetic and logic: what lands in V[x] and in VF (R150 to R162). -/

namespace Sys2Proof.Machine

theorem registerFrame_setResultFlag (s : State) (x : RegIdx) (r : Byte) (f : Bool) :
    RegisterFrame [x, 0xF] s (s.setResultFlag x r f) :=
  have ⟨heq, hkept⟩ := setResultFlag_effect s x r f
  registerFrame_of_eq heq hkept

theorem registerFrame_setLogic (s : State) (x : RegIdx) (r : Byte) : RegisterFrame [x, 0xF] s (s.setLogic x r) := by
  obtain ⟨heq, hkept⟩ := setLogic_effect s x r
  refine registerFrame_of_eq ?_ hkept
  rw [setLogic_eq]

@[simp] theorem getV_VF_setResultFlag (s : State) (x : RegIdx) (r : Byte) (f : Bool) :
    (s.setResultFlag x r f).getV 0xF = flagByte f :=
  (getV_setResultFlag s x 0xF r f).trans (if_pos rfl)

theorem getV_result_setResultFlag (s : State) {x : RegIdx} (r : Byte) (f : Bool) (hx : x ≠ 0xF) :
    (s.setResultFlag x r f).getV x = r :=
  ((getV_setResultFlag s x x r f).trans (if_neg hx)).trans (if_pos rfl)

theorem flagByte_decide (p : Prop) [Decidable p] : flagByte (decide p) = if p then 1 else 0 := by
  simp [flagByte]

/-- Settles O12: one register write; the sum is the word's, modulo 2^8. -/
theorem addImmediateWithoutFlag : Obligations.AddImmediateWithoutFlag := by
  intro x nn s
  refine ⟨s.setV x (s.getV x + nn), rfl, ?_, registerFrame_setV s x _⟩
  rw [getV_setV_same, BitVec.toNat_add]

/-- Settles O13: one register write. -/
theorem copyRegister : Obligations.CopyRegister := fun x y s =>
  ⟨s.setV x (s.getV y), rfl, getV_setV_same s x _, registerFrame_setV s x _⟩

/-- The three logic instructions share their second half: a result to V[x], and VF by the flag reset (D16). -/
theorem setLogic_written (s : State) (x : RegIdx) (r : Byte) :
    RegisterFrame [x, 0xF] s (s.setLogic x r) ∧
      (s.params.vfResetOnLogic = true → (s.setLogic x r).getV 0xF = 0) ∧
      (s.params.vfResetOnLogic = false → x ≠ 0xF → (s.setLogic x r).getV 0xF = s.getV 0xF) ∧
      (x ≠ 0xF ∨ s.params.vfResetOnLogic = false → (s.setLogic x r).getV x = r) := by
  refine ⟨registerFrame_setLogic s x r, fun hq => ?reset, fun hq hx => ?kept, fun h => ?result⟩
  case reset => rw [getV_setLogic, if_pos ⟨hq, rfl⟩]
  case kept => rw [getV_setLogic, if_neg (by simp [hq]), if_neg hx.symm]
  case result =>
    have hno : ¬(s.params.vfResetOnLogic = true ∧ x = regVF) := by
      rintro ⟨hq, hx⟩
      rcases h with h | h
      · exact h hx
      · simp [hq] at h
    rw [getV_setLogic, if_neg hno, if_pos rfl]

/-- Settles O14: the shared write, and the operation bit by bit. -/
theorem logicAndItsFlagReset : Obligations.LogicAndItsFlagReset := by
  intro x y s i f hif
  have hop : ∃ r, exec i s = .next (s.setLogic x r) ∧
      ∀ k, r.getLsbD k = f ((s.getV x).getLsbD k) ((s.getV y).getLsbD k) := by
    rcases hif with ⟨rfl, rfl⟩ | ⟨rfl, rfl⟩ | ⟨rfl, rfl⟩
    · exact ⟨s.getV x ||| s.getV y, rfl, fun _ => BitVec.getLsbD_or⟩
    · exact ⟨s.getV x &&& s.getV y, rfl, fun _ => BitVec.getLsbD_and⟩
    · exact ⟨s.getV x ^^^ s.getV y, rfl, fun _ => BitVec.getLsbD_xor⟩
  obtain ⟨r, hexec, hbits⟩ := hop
  obtain ⟨hframe, hreset, hkept, hresult⟩ := setLogic_written s x r
  exact ⟨s.setLogic x r, hexec, hframe, hreset, hkept, fun h k _ => (hresult h).symm ▸ hbits k⟩

/-- Settles O15: sum and carry of the old operands; `setResultFlag` writes the flag last. -/
theorem addSetsCarry : Obligations.AddSetsCarry := by
  intro x y
  refine ⟨packXYN_eq_or 0x8 x y 0x4, fun s => ⟨_, rfl, registerFrame_setResultFlag s x _ _, ?flag, fun hx => ?sum⟩⟩
  case flag => rw [getV_VF_setResultFlag, carryOut, flagByte_decide]
  case sum => rw [getV_result_setResultFlag s _ _ hx, BitVec.toNat_add]

theorem sub_toNat (p q : Byte) : (p - q).toNat = (p.toNat + 256 - q.toNat) % 256 := by
  have hq := q.isLt
  rw [BitVec.toNat_sub]
  omega

/-- Settles O16: difference and no-borrow of the old operands; `setResultFlag` writes the flag last. -/
theorem subSetsNoBorrow : Obligations.SubSetsNoBorrow := by
  intro x y
  refine ⟨packXYN_eq_or 0x8 x y 0x5, fun s =>
    ⟨_, rfl, registerFrame_setResultFlag s x _ _, ?flag, fun hx => ?difference⟩⟩
  case flag => rw [getV_VF_setResultFlag, noBorrow, flagByte_decide]
  case difference => rw [getV_result_setResultFlag s _ _ hx, sub_toNat]

/-- Settles O17: as SUB with the operands exchanged. -/
theorem reverseSubSetsNoBorrow : Obligations.ReverseSubSetsNoBorrow := by
  intro x y s
  refine ⟨_, rfl, registerFrame_setResultFlag s x _ _, ?flag, fun hx => ?difference⟩
  case flag => rw [getV_VF_setResultFlag, noBorrow, flagByte_decide]
  case difference => rw [getV_result_setResultFlag s _ _ hx, sub_toNat]

theorem shiftSource_eq (s : State) (x y : RegIdx) :
    s.shiftSource x y = if s.params.shiftQuirk = .legacyVy then s.getV y else s.getV x := by
  unfold State.shiftSource
  split <;> simp [*]

theorem flagByte_toNat (f : Bool) : (flagByte f).toNat = f.toNat := by cases f <;> rfl

theorem shiftedOutRight_toNat (b : Byte) : (flagByte (shiftedOutRight b)).toNat = b.toNat % 2 := by
  rw [flagByte_toNat, shiftedOutRight, ← BitVec.testBit_toNat, Nat.toNat_testBit]
  simp

theorem shiftedOutLeft_toNat (b : Byte) : (flagByte (shiftedOutLeft b)).toNat = b.toNat / 128 := by
  have hb := b.isLt
  rw [flagByte_toNat, shiftedOutLeft, ← BitVec.testBit_toNat, Nat.toNat_testBit]
  omega

/-- Settles O18: both shifts of the quirk's source, the bit shifted out as the flag. -/
theorem shiftsTakeTheQuirksSource : Obligations.ShiftsTakeTheQuirksSource := by
  intro x y s src hsrc
  rw [← shiftSource_eq] at hsrc
  subst hsrc
  refine ⟨⟨_, rfl, registerFrame_setResultFlag s x _ _, ?rightFlag, fun hx => ?right⟩,
    ⟨_, rfl, registerFrame_setResultFlag s x _ _, ?leftFlag, fun hx => ?left⟩⟩
  case rightFlag => rw [getV_VF_setResultFlag, shiftedOutRight_toNat]
  case right => rw [getV_result_setResultFlag s _ _ hx, BitVec.toNat_ushiftRight, Nat.shiftRight_one]
  case leftFlag => rw [getV_VF_setResultFlag, shiftedOutLeft_toNat]
  case left => rw [getV_result_setResultFlag s _ _ hx, BitVec.toNat_shiftLeft, Nat.shiftLeft_eq, Nat.mul_comm]

/-- Settles O19: one draw and one register write; a bit outside the mask is 0 whatever the byte. -/
theorem randomUnderMask : Obligations.RandomUnderMask := by
  intro x nn s
  have hvalue : (s.drawn.setV x (s.randomByte &&& nn)).getV x = Config.randomByte s.draws &&& nn :=
    getV_setV_same _ x _
  refine ⟨_, rfl, registerFrame_of_eq rfl (setV_effect s.drawn x _).2, hvalue, rfl, fun k hk => ?_⟩
  rw [hvalue, BitVec.getLsbD_and, hk, Bool.and_false]

end Sys2Proof.Machine
end

section
/-! SUPPORT. The index and the transfers between registers and memory (R180 to R185). -/

namespace Sys2Proof.Machine

theorem toNat_ofNat_of_lt {n k : Nat} (h : k < 2 ^ n) : (BitVec.ofNat n k).toNat = k :=
  (BitVec.toNat_ofNat k n).trans (Nat.mod_eq_of_lt h)

/-! ### The index alone -/

/-- R5's constraints, one by one. -/
theorem params_valid_iff {p : Params} : p.valid = true ↔
    0 < p.clockHz ∧ 0 < p.stackDepth ∧ p.fontBase + 80 ≤ 0x200 ∧ p.fontTable.length = 80 := by
  simp [Params.valid, and_assoc]

/-- Settles O21: one write of I; the word's sum is modulo 2^16, and a byte keeps its value as a word. -/
theorem addToIndexWraps : Obligations.AddToIndexWraps := by
  intro x s
  refine ⟨_, rfl, ?_, indexFrame_setI s _⟩
  have hbyte : (zextByte (s.getV x)).toNat = (s.getV x).toNat := BitVec.toNat_setWidth_of_le (by decide)
  rw [setI_i, BitVec.toNat_add, hbyte]

theorem and_lowNibble_toNat (b : Byte) : (b &&& 0x0F).toNat = b.toNat % 16 := by
  rw [BitVec.toNat_and]
  exact Nat.and_two_pow_sub_one_eq_mod b.toNat 4

/-- The font ends at 0x200 at the latest, so the glyph's address fits a word (R5, R182). -/
theorem glyphAddr_toNat {s : State} (hv : s.params.valid = true) (b : Byte) :
    (s.glyphAddr b).toNat = s.params.fontBase + 5 * (b.toNat % 16) := by
  obtain ⟨_, _, hbase, _⟩ := params_valid_iff.mp hv
  rw [State.glyphAddr, toNat_ofNat_of_lt (by omega), and_lowNibble_toNat]

/-- Settles O22: one write of I. -/
theorem glyphAddress : Obligations.GlyphAddress := fun x s hv =>
  ⟨s.setI (s.glyphAddr (s.getV x)), rfl, glyphAddr_toNat hv (s.getV x), indexFrame_setI s _⟩

/-! ### Stores -/

theorem storeFrame_of_eq {lo n : Nat} {s t : State} (ht : t = { s with mem := t.mem, i := t.i })
    (hm : MemoryKeptOutside lo n s t) : StoreFrame lo n s t := by
  rw [ht] at hm ⊢
  exact ⟨rfl, fun _ _ => rfl, hm, rfl, rfl, ⟨rfl, rfl⟩, rfl, rfl, ⟨rfl, rfl, rfl, rfl, rfl, rfl⟩⟩

/-- Bytes stored from `a` stand in memory in their order, and every other byte of it is kept. -/
theorem writeBytes_stored {s : State} {a : Nat} (bs : List Byte) (ha : a + bs.length ≤ 0x1000) (hs : s.MemWf) :
    (∀ k, k < bs.length → (s.writeBytes a bs).readByte (a + k) = bs.getD k 0) ∧
      MemoryKeptOutside a bs.length s (s.writeBytes a bs) :=
  ⟨fun k hk => readByte_writeBytes bs s a k hk ha hs, fun b hb => readByte_writeBytes_other bs s a b hb⟩

theorem exec_ldB_in {s : State} (x : RegIdx) (h : s.i.toNat + 2 ≤ 0xFFF) :
    exec (.ldB x) s = .next (s.writeBytes s.i.toNat (bcdDigits (s.getV x))) := rangeChecked_in h

theorem exec_dump_in {s : State} (x : RegIdx) (h : s.i.toNat + x.toNat ≤ 0xFFF) :
    exec (.dump x) s = .next ((s.writeBytes s.i.toNat (s.regsUpTo x)).stepIndex x) := rangeChecked_in h

theorem exec_load_in {s : State} (x : RegIdx) (h : s.i.toNat + x.toNat ≤ 0xFFF) :
    exec (.load x) s = .next ((s.setVs 0 (s.readBytes s.i.toNat (x.toNat + 1))).stepIndex x) := rangeChecked_in h

/-- Settles O23: the three digits, each below 256, at their places. -/
theorem storeBcd : Obligations.StoreBcd := by
  intro x s hs h
  have hv := (s.getV x).isLt
  obtain ⟨hread, hkept⟩ := writeBytes_stored (s := s) (a := s.i.toNat) (bcdDigits (s.getV x))
    (Nat.add_le_add_right h 1) hs.mem
  refine ⟨_, exec_ldB_in x h, ?hundreds, ?tens, ?units, by rw [writeBytes_eq],
    storeFrame_of_eq (writeBytes_eq _ _ _) hkept⟩
  case hundreds => exact (congrArg BitVec.toNat (hread 0 (show 0 < 3 by decide))).trans (toNat_ofNat_of_lt (by omega))
  case tens => exact (congrArg BitVec.toNat (hread 1 (show 1 < 3 by decide))).trans (toNat_ofNat_of_lt (by omega))
  case units => exact (congrArg BitVec.toNat (hread 2 (show 2 < 3 by decide))).trans (toNat_ofNat_of_lt (by omega))

/-- The stepped index under both quirks; within range it does not wrap. -/
theorem stepIndex_toNat {s : State} {x : RegIdx} (h : s.i.toNat + x.toNat ≤ 0xFFF) :
    (s.stepIndex x).i.toNat =
      if s.params.indexQuirk = .increment then s.i.toNat + x.toNat + 1 else s.i.toNat := by
  rw [stepIndex_i]
  cases s.params.indexQuirk
  · exact toNat_ofNat_of_lt (by omega)
  · rfl

theorem readByte_stepIndex (s : State) (x : RegIdx) (a : Nat) : (s.stepIndex x).readByte a = s.readByte a := by
  rw [stepIndex_eq]; rfl

theorem ofNat_toNat_regIdx (r : RegIdx) : BitVec.ofNat 4 r.toNat = r := by simp

/-- What FX55 leaves in memory (R184). -/
theorem dump_stored {s : State} {x : RegIdx} (hs : s.Inv) (h : s.i.toNat + x.toNat ≤ 0xFFF) :
    (∀ r : RegIdx, r.toNat ≤ x.toNat →
      ((s.writeBytes s.i.toNat (s.regsUpTo x)).stepIndex x).readByte (s.i.toNat + r.toNat) = s.getV r) ∧
      MemoryKeptOutside s.i.toNat (x.toNat + 1) s ((s.writeBytes s.i.toNat (s.regsUpTo x)).stepIndex x) := by
  have hlength := regsUpTo_length s x
  obtain ⟨hread, hkept⟩ := writeBytes_stored (s := s) (a := s.i.toNat) (s.regsUpTo x) (by omega) hs.mem
  refine ⟨fun r hr => ?_, fun a ha => ?_⟩
  · rw [readByte_stepIndex, hread r.toNat (by omega), regsUpTo_getD s x r.toNat hr, ofNat_toNat_regIdx]
  · rw [readByte_stepIndex]
    exact hkept a (hlength.symm ▸ ha)

/-- Settles O24: the registers stored, then the index step, which leaves memory alone. -/
theorem dumpRegisters : Obligations.DumpRegisters := by
  intro x s hs h
  obtain ⟨hread, hkept⟩ := dump_stored hs h
  refine ⟨_, exec_dump_in x h, hread, ?index, storeFrame_of_eq ?fields hkept⟩
  case index =>
    rw [writeBytes_eq]
    exact stepIndex_toNat h
  case fields => rw [stepIndex_eq, writeBytes_eq]

/-- Settles O25: register r takes byte r of those read, those above x are out of the list's reach. -/
theorem loadRegisters : Obligations.LoadRegisters := by
  intro x s h
  have hx := x.isLt
  have hlength := readBytes_length s s.i.toNat (x.toNat + 1)
  refine ⟨_, exec_load_in x h, fun r => ?registers, ?index, ?frame⟩
  case registers =>
    rw [stepIndex_eq]
    refine (getV_setVs _ s 0 (by omega) r).trans ?_
    by_cases hr : r.toNat ≤ x.toNat
    · rw [if_pos ⟨Nat.zero_le _, by omega⟩, if_pos hr, Nat.sub_zero, readBytes_getD _ _ _ _ (Nat.lt_succ_of_le hr)]
    · rw [if_neg (by omega), if_neg hr]
  case index =>
    rw [setVs_eq]
    exact stepIndex_toNat h
  case frame =>
    rw [stepIndex_eq, setVs_eq]
    exact ⟨rfl, fun _ => rfl, rfl, rfl, ⟨rfl, rfl⟩, rfl, rfl, ⟨rfl, rfl, rfl, rfl, rfl, rfl⟩⟩

theorem exec_drw_checked {s : State} (x y : RegIdx) {n : Nibble} (hn : 0 < n.toNat) :
    exec (.drw x y n) s =
      rangeChecked (.drw x y n) s.i.toNat (s.i.toNat + n.toNat - 1) s (s.drawnSprite x y n) := by
  change execDrw x y n s = _
  rw [execDrw, if_neg (Nat.ne_of_gt hn)]
  rfl

/-- Settles O26: each of the four is a checked access, and a check that fails writes the mode alone. -/
theorem outOfRangeAccessHalts : Obligations.OutOfRangeAccessHalts := by
  intro x y n s
  refine ⟨fun h => ?bcd, fun h => ⟨?dump, ?load⟩, fun hn h => ?draw⟩
  case bcd => exact rangeChecked_out h
  case dump => exact rangeChecked_out h
  case load => exact rangeChecked_out h
  case draw => exact (exec_drw_checked x y hn).trans (rangeChecked_out h)

/-- Settles O58: the dump leaves V0 and V1 at PC and PC + 1, where the next fetch reads them. -/
theorem storesReachTheNextFetch : Obligations.StoresReachTheNextFetch := by
  intro x s i hs hm hx hi hpc halign hd
  have h : s.i.toNat + x.toNat ≤ 0xFFF := hi ▸ hpc
  obtain ⟨hread, _⟩ := dump_stored hs h
  have heq : (s.writeBytes s.i.toNat (s.regsUpTo x)).stepIndex x =
      { s with mem := (s.writeBytes s.i.toNat (s.regsUpTo x)).mem,
               i := ((s.writeBytes s.i.toNat (s.regsUpTo x)).stepIndex x).i } := by
    rw [stepIndex_eq, writeBytes_eq]
  refine ⟨_, exec_dump_in x h, ?_⟩
  generalize (s.writeBytes s.i.toNat (s.regsUpTo x)).stepIndex x = t at hread heq ⊢
  have hword : t.fetchWord = s.getV 0 ++ s.getV 1 := by
    have hhi := hread 0 (Nat.zero_le _)
    have hlo := hread 1 hx
    rw [hi] at hhi hlo
    have htpc : t.pc = s.pc := by rw [heq]
    rw [State.fetchWord, htpc]
    exact congrArg₂ wordOfBytes hhi hlo
  have hfetch : t.fetchError = none := by
    refine fetchError_of_fetchable ?_ ?_ <;> rw [heq]
    · change s.pc.toNat ≤ 0xFFE; omega
    · exact halign
  have hmode : t.mode = .running := by rw [heq]; exact hm
  exact cycle_exec hmode hfetch (hword ▸ hd)

end Sys2Proof.Machine
end

section
/-! SUPPORT. Key skips and the key-wait (R105, R220 to R222, R226). -/

namespace Sys2Proof.Machine

theorem skipOnKey_no_key {i : Instr} {x : RegIdx} {wanted : Bool} {s : State} (h : 15 < (s.getV x).toNat) :
    skipOnKey i x wanted s = .next (s.raise (.keyIndexOutOfRange (s.pc - 2) (encode i) (s.getV x))) := by
  simp [skipOnKey, keyIndex_eq, Nat.not_le_of_lt h, State.fetchAddr]

theorem skipOnKey_key {i : Instr} {x k : RegIdx} {wanted : Bool} {s : State} (h : (s.getV x).toNat = k.toNat) :
    skipOnKey i x wanted s = .next (s.skipIf (s.keyDown k == wanted)) := by
  have hk : (s.getV x).setWidth 4 = k := by
    rw [← BitVec.toNat_inj, BitVec.toNat_setWidth, h]
    exact Nat.mod_eq_of_lt k.isLt
  have hle : (s.getV x).toNat ≤ 15 := h ▸ Nat.le_of_lt_succ k.isLt
  simp only [skipOnKey, keyIndex_eq, if_pos hle, hk]

/-- Settles O29: both are `skipOnKey`, which halts where V[x] names no key and skips on the key's flag otherwise. -/
theorem keySkipsPollTheKey : Obligations.KeySkipsPollTheKey := by
  intro x s
  refine ⟨fun h => ⟨skipOnKey_no_key h, skipOnKey_no_key h⟩, fun hs k hk => ⟨?skp, ?sknp⟩⟩
  case skp =>
    refine ⟨_, skipOnKey_key hk, pcFrame_setPc s _, ?_⟩
    simpa using hs.skipIf_pc_toNat (s.keyDown k == true)
  case sknp =>
    refine ⟨_, skipOnKey_key hk, pcFrame_setPc s _, ?_⟩
    rw [hs.skipIf_pc_toNat]
    cases s.keyDown k <;> rfl

/-- Settles O31: one write of the mode. -/
theorem keyWaitBegins : Obligations.KeyWaitBegins := fun x s =>
  ⟨s.setMode (.waiting x s.keys), rfl, rfl, rfl, fun _ _ => rfl, fun _ => rfl, ⟨rfl, rfl, rfl⟩, ⟨rfl, rfl⟩, rfl,
    ⟨rfl, rfl, rfl, rfl, rfl, rfl⟩⟩

theorem cycle_waiting {s : State} {x : RegIdx} {snap : Keys} (hm : s.mode = .waiting x snap) :
    cycle s = .next (s.waitCycle x snap) := by
  simp [cycle, hm]

/-- Settles O32: whether the set of newly pressed keys is empty decides the cycle. -/
theorem waitingCyclePolls : Obligations.WaitingCyclePolls := by
  intro s x snap hm
  refine ⟨fun hheld => ?poll, fun ⟨k, hdown, hup⟩ => ?press⟩
  case poll =>
    have hnone : s.newlyPressed snap = [] := by
      refine List.eq_nil_iff_forall_not_mem.mpr fun k hk => ?_
      obtain ⟨hdown, hup⟩ := mem_newlyPressed.mp hk
      simp [hheld k hdown] at hup
    rw [cycle_waiting hm, waitCycle_none hnone]
    rfl
  case press =>
    have hsome : s.newlyPressed snap ≠ [] := List.ne_nil_of_mem (mem_newlyPressed.mpr ⟨hdown, hup⟩)
    obtain ⟨j, hj, hcycle⟩ := waitCycle_some (x := x) hsome
    obtain ⟨hjdown, hjup⟩ := mem_newlyPressed.mp hj
    refine ⟨_, j, (cycle_waiting hm).trans (congrArg _ hcycle), hjdown, hjup, ?value, rfl, rfl, ?registers,
      fun _ => rfl,
      ⟨rfl, rfl, rfl⟩, ⟨rfl, rfl⟩, rfl, ⟨rfl, rfl, rfl, rfl, rfl, rfl⟩⟩
    case value =>
      rw [getV_setMode, getV_setV_same]
      exact BitVec.toNat_setWidth_of_le (by decide)
    case registers => exact (setV_effect s.drawn x _).2

end Sys2Proof.Machine
end

section
/-! SUPPORT. DRAW_SYNC set otherwise commutes with every operation (R111). -/

namespace Sys2Proof.Machine

/-- The operation answers with DRAW_SYNC set to `b` as it answers without. -/
def DrawSyncFree (b : Bool) (f : State → Result) (s : State) : Prop :=
  f (s.withDrawSync b) = mapNext (·.withDrawSync b) (f s)

section
variable (b : Bool) (s : State)

/-! ### The shared operations -/

theorem setLogic_withDrawSync (x : RegIdx) (r : Byte) :
    (s.withDrawSync b).setLogic x r = (s.setLogic x r).withDrawSync b := by
  unfold State.setLogic
  have hq : (s.withDrawSync b).params.vfResetOnLogic = s.params.vfResetOnLogic := rfl
  rw [hq]
  cases s.params.vfResetOnLogic <;> rfl

theorem stepIndex_withDrawSync (x : RegIdx) :
    (s.withDrawSync b).stepIndex x = (s.stepIndex x).withDrawSync b := by
  rw [stepIndex_eq, stepIndex_eq s, stepIndex_i, stepIndex_i]
  rfl

theorem writeBytes_withDrawSync (a : Nat) (bs : List Byte) :
    (s.withDrawSync b).writeBytes a bs = (s.writeBytes a bs).withDrawSync b := by
  induction bs generalizing s a with
  | nil => rfl
  | cons x rest ih => exact ih (s.writeByte a x) (a + 1)

theorem setVs_withDrawSync (x : Nat) (bs : List Byte) :
    (s.withDrawSync b).setVs x bs = (s.setVs x bs).withDrawSync b := by
  induction bs generalizing s x with
  | nil => rfl
  | cons y rest ih => exact ih (s.setV (BitVec.ofNat 4 x) y) (x + 1)

theorem rangeChecked_withDrawSync (i : Instr) (lo hi : Nat) (t : State) :
    rangeChecked i lo hi (s.withDrawSync b) (t.withDrawSync b) =
      mapNext (·.withDrawSync b) (rangeChecked i lo hi s t) := by
  rcases Nat.lt_or_ge 0xFFF hi with h | h
  · rw [rangeChecked_out h, rangeChecked_out h]; rfl
  · rw [rangeChecked_in h, rangeChecked_in h]; rfl

theorem skipOnKey_withDrawSync (i : Instr) (x : RegIdx) (wanted : Bool) :
    DrawSyncFree b (skipOnKey i x wanted) s := by
  rcases Nat.lt_or_ge 15 (s.getV x).toNat with h | h
  · rw [DrawSyncFree, skipOnKey_no_key h, skipOnKey_no_key (s := s.withDrawSync b) h]; rfl
  · have hk : (s.getV x).toNat = (BitVec.ofNat 4 (s.getV x).toNat).toNat :=
      (toNat_ofNat_of_lt (Nat.lt_succ_of_le h)).symm
    rw [DrawSyncFree, skipOnKey_key hk, skipOnKey_key (s := s.withDrawSync b) hk]; rfl

/-! ### The instructions -/

theorem exec_ret_withDrawSync : DrawSyncFree b (exec .ret) s := by
  by_cases h : s.sp = 0
  · rw [DrawSyncFree, exec_ret_empty h, exec_ret_empty (s := s.withDrawSync b) h]; rfl
  · rw [DrawSyncFree, exec_ret_pop h, exec_ret_pop (s := s.withDrawSync b) h]; rfl

theorem exec_call_withDrawSync (nnn : Addr) : DrawSyncFree b (exec (.call nnn)) s := by
  by_cases h : s.sp = s.params.stackDepth
  · rw [DrawSyncFree, exec_call_full nnn h, exec_call_full (s := s.withDrawSync b) nnn h]; rfl
  · rw [DrawSyncFree, exec_call_push nnn h, exec_call_push (s := s.withDrawSync b) nnn h]; rfl

theorem exec_drw_none {n : Nibble} (x y : RegIdx) (hn : n.toNat = 0) :
    exec (.drw x y n) s = .next (s.drawnSprite x y n) := by
  change execDrw x y n s = _
  rw [execDrw, if_pos hn]

theorem exec_drw_withDrawSync (x y : RegIdx) (n : Nibble) : DrawSyncFree b (exec (.drw x y n)) s := by
  rcases Nat.eq_zero_or_pos n.toNat with hn | hn
  · rw [DrawSyncFree, exec_drw_none _ x y hn, exec_drw_none _ x y hn]; rfl
  · rw [DrawSyncFree, exec_drw_checked x y hn, exec_drw_checked x y hn]
    exact rangeChecked_withDrawSync b s _ _ _ (s.drawnSprite x y n)

theorem exec_withDrawSync (i : Instr) : DrawSyncFree b (exec i) s := by
  cases i
  case ret => exact exec_ret_withDrawSync b s
  case call nnn => exact exec_call_withDrawSync b s nnn
  case orReg | andReg | xorReg => exact congrArg Host.Outcome.next (setLogic_withDrawSync b s _ _)
  case skp x => exact skipOnKey_withDrawSync b s (.skp x) x true
  case sknp x => exact skipOnKey_withDrawSync b s (.sknp x) x false
  case drw x y n => exact exec_drw_withDrawSync b s x y n
  case ldB x =>
    have hwrite := writeBytes_withDrawSync b s s.i.toNat (bcdDigits (s.getV x))
    exact (congrArg (rangeChecked (.ldB x) s.i.toNat (s.i.toNat + 2) (s.withDrawSync b)) hwrite).trans
      (rangeChecked_withDrawSync b s _ _ _ _)
  case dump x =>
    have hwrite := (congrArg (·.stepIndex x) (writeBytes_withDrawSync b s s.i.toNat (s.regsUpTo x))).trans
      (stepIndex_withDrawSync b _ x)
    exact (congrArg (rangeChecked (.dump x) s.i.toNat (s.i.toNat + x.toNat) (s.withDrawSync b)) hwrite).trans
      (rangeChecked_withDrawSync b s _ _ _ _)
  case load x =>
    have hset := (congrArg (·.stepIndex x) (setVs_withDrawSync b s 0 (s.readBytes s.i.toNat (x.toNat + 1)))).trans
      (stepIndex_withDrawSync b _ x)
    exact (congrArg (rangeChecked (.load x) s.i.toNat (s.i.toNat + x.toNat) (s.withDrawSync b)) hset).trans
      (rangeChecked_withDrawSync b s _ _ _ _)
  all_goals rfl

/-! ### The cycle and the step -/

theorem waitCycle_withDrawSync (x : RegIdx) (snap : Keys) :
    (s.withDrawSync b).waitCycle x snap = (s.waitCycle x snap).withDrawSync b := by
  unfold State.waitCycle
  have hnew : (s.withDrawSync b).newlyPressed snap = s.newlyPressed snap := rfl
  rw [hnew]
  cases s.newlyPressed snap <;> rfl

theorem cycle_withDrawSync : DrawSyncFree b cycle s := by
  match hm : s.mode with
  | .halted e => simp [DrawSyncFree, cycle, hm, State.withDrawSync, mapNext]
  | .waiting x snap =>
    rw [DrawSyncFree, cycle_waiting hm, cycle_waiting (s := s.withDrawSync b) hm]
    exact congrArg Host.Outcome.next (waitCycle_withDrawSync b s x snap)
  | .running =>
    cases hf : s.fetchError
    case some e => rw [DrawSyncFree, cycle_fetchError hm hf, cycle_fetchError (s := s.withDrawSync b) hm hf]; rfl
    case none =>
      cases hd : decode s.fetchWord
      case error e => rw [DrawSyncFree, cycle_unknown hm hf hd, cycle_unknown (s := s.withDrawSync b) hm hf hd]; rfl
      case ok i =>
        rw [DrawSyncFree, cycle_exec hm hf hd, cycle_exec (s := s.withDrawSync b) hm hf hd]
        exact exec_withDrawSync b s.advancePc i

theorem openFrame_withDrawSync : (s.withDrawSync b).openFrame = (s.openFrame).withDrawSync b := by
  unfold State.openFrame
  have hq : (s.withDrawSync b).params.tickOrder = s.params.tickOrder := rfl
  rw [hq]
  cases s.params.tickOrder <;> rfl

theorem closeFrame_withDrawSync : (s.withDrawSync b).closeFrame = (s.closeFrame).withDrawSync b := by
  unfold State.closeFrame
  have hq : (s.withDrawSync b).params.tickOrder = s.params.tickOrder := rfl
  rw [hq]
  cases s.params.tickOrder <;> rfl

end

/-- Settles O44: each place a step can be at has the same answer, DRAW_SYNC apart; only invalid parameters fault, and they do either way. -/
theorem drawSyncHasNoEffect : Obligations.DrawSyncHasNoEffect := by
  intro s b
  cases hv : s.params.valid
  case false =>
    have hfault (t : State) (ht : t.params.valid = false) : step t = .fault .invalidParams := by
      simp [step, scheduledStep, ht]
    rw [hfault s hv, hfault (s.withDrawSync b) hv]
    rfl
  case true =>
    match hh : s.isHalted, hp : s.phase with
    | true, _ => rw [step_halted hv hh, step_halted (s := s.withDrawSync b) hv hh]; rfl
    | false, .between =>
      rw [step_between hv hh hp, step_between (s := s.withDrawSync b) hv hh hp]
      exact congrArg Host.Outcome.next (openFrame_withDrawSync b s.hostTurn)
    | false, .inFrame 0 =>
      rw [step_lastOfFrame hv hh hp, step_lastOfFrame (s := s.withDrawSync b) hv hh hp]
      exact congrArg Host.Outcome.next (closeFrame_withDrawSync b s.hostTurn)
    | false, .inFrame (n + 1) =>
      rw [step_inFrame hv hh hp, step_inFrame (s := s.withDrawSync b) hv hh hp]
      exact cycle_withDrawSync b (s.hostTurn.setPhase (.inFrame n))

end Sys2Proof.Machine
end

section
/-! SUPPORT. Reset and load: what memory reads as, and the invariant of a new session (R35, R57, R270, R271). -/

namespace Sys2Proof.Machine

/-! ### Memory at reset -/

theorem readByte_initial (p : Params) (a : Nat) : (State.initial p).readByte a = unlistedByte p a := rfl

theorem unlistedByte_font {p : Params} (hp : p.fontTable.length = 80) {k : Nat} (hk : k < 80) :
    some (unlistedByte p (p.fontBase + k)) = p.fontTable[k]? := by
  have hk' : k < p.fontTable.length := hp ▸ hk
  rw [unlistedByte, if_pos (by omega), Nat.add_sub_cancel_left, List.getD_eq_getElem?_getD,
    List.getElem?_eq_getElem hk', Option.getD_some]

theorem unlistedByte_outside {p : Params} {a : Nat} (h : ¬(p.fontBase ≤ a ∧ a < p.fontBase + 80)) :
    unlistedByte p a = 0 := if_neg h

/-- Settles O45: the fields by evaluation, the vectors and lists by what a replicated element reads as. -/
theorem resetValues : Obligations.ResetValues := by
  refine ⟨fun r => ?registers, rfl, rfl, rfl, List.length_replicate, fun w hw => List.eq_of_mem_replicate hw, rfl, rfl,
    fun x y hx hy => pixelOf_replicate_false hx hy, fun k => ?keys, rfl, rfl, rfl, fun a _ => rfl⟩
  case registers => exact Vector.getElem_replicate r.isLt
  case keys => exact Vector.getElem_replicate k.isLt

/-! ### The invariant of a new session -/

theorem initial_inv {p : Params} (hp : p.valid = true) : (State.initial p).Inv where
  params := hp
  mem := rfl
  pc := (by decide : (0x200 : Word).toNat ≤ 0x10FE)
  stackLength := List.length_replicate
  sp := Nat.zero_le _
  stackEntries := fun w hw => by
    rw [List.eq_of_mem_replicate (hw : w ∈ List.replicate p.stackDepth 0)]
    decide
  credit := (by decide : 0 < 60)
  left := Nat.zero_le _

/-- Settles O47: reset is the session begun under the default parameters, which are valid. -/
theorem resetMeetsInvariant : Obligations.ResetMeetsInvariant := initial_inv (by decide)

theorem loadProgram_short (p : Params) {bytes : List Byte} (h : bytes.length ≤ 3584) :
    loadProgram p bytes = .ok ((State.initial p).writeBytes 0x200 bytes) := if_neg (Nat.not_lt_of_le h)

theorem loadProgram_long (p : Params) {bytes : List Byte} (h : 3584 < bytes.length) :
    loadProgram p bytes = .error (.loadError bytes.length) := if_pos h

theorem writeBytes_inv {s : State} {a : Nat} {bs : List Byte} (hs : s.Inv) (ha : a + bs.length ≤ 0x1000) :
    (s.writeBytes a bs).Inv := by
  have hmem : (s.writeBytes a bs).MemWf := MemWf_writeBytes bs ha hs.mem
  rw [State.MemWf, writeBytes_params] at hmem
  rw [writeBytes_eq]
  exact { hs with mem := hmem }

/-- Settles O48: load writes memory alone, within its bounds, on the state after reset. -/
theorem loadMeetsInvariant : Obligations.LoadMeetsInvariant := by
  intro p bytes s hp h
  rcases Nat.lt_or_ge 3584 bytes.length with hlong | hshort
  · rw [loadProgram_long p hlong] at h
    cases h
  · rw [loadProgram_short p hshort] at h
    cases h
    exact writeBytes_inv (initial_inv hp) (by omega)

/-! ### What load places -/

theorem reload_of_ok {s t : State} {bytes : List Byte} (h : loadProgram s.params bytes = .ok t) :
    s.reload bytes = { t with draws := s.draws, turns := s.turns } := by
  simp [State.reload, h]

theorem reload_of_error {s : State} {bytes : List Byte} {e : FatalError}
    (h : loadProgram s.params bytes = .error e) : s.reload bytes = s := by
  simp [State.reload, h]

/-- Settles O46: the program is read back as written; the font lies below it and is read as at reset, like every byte outside. -/
theorem loadPlacesTheProgram : Obligations.LoadPlacesTheProgram := by
  intro p bytes hp
  obtain ⟨_, _, hbase, htable⟩ := params_valid_iff.mp hp
  refine ⟨fun hlen => ?session, fun hlen s hs => ?again, fun hlen => ⟨loadProgram_long p hlen, fun s => ?refused⟩⟩
  case session =>
    refine ⟨_, loadProgram_short p hlen, writeBytes_eq _ _ _, fun k hk => ?program, fun k hk => ?font,
      fun a _ hprogram hfont => ?zero⟩
    case program =>
      rw [readByte_writeBytes bytes _ _ k hk (by omega) (initial_inv hp).mem, List.getD_eq_getElem?_getD,
        List.getElem?_eq_getElem hk, Option.getD_some]
    case font =>
      rw [readByte_writeBytes_other _ _ _ _ (by omega), readByte_initial, unlistedByte_font htable hk]
    case zero =>
      rw [readByte_writeBytes_other _ _ _ _ hprogram, readByte_initial, unlistedByte_outside hfont]
  case again =>
    subst hs
    exact ⟨_, loadProgram_short s.params hlen, reload_of_ok (loadProgram_short s.params hlen)⟩
  case refused => exact reload_of_error (loadProgram_long s.params hlen)

end Sys2Proof.Machine
end

section
/-! SUPPORT. The sprite draw as a list of pixels flipped one after another, no pixel twice (R202, R203). -/

namespace Sys2Proof.Machine

/-- The pixels that the 1 bits of a sprite byte land on, from the left. -/
def byteTargets (e : SpriteEdge) (x0 py : Nat) (b : Byte) : List (Nat × Nat) :=
  ((List.range 8).filter fun c => b.getLsbD (7 - c)).filterMap fun c => place e (x0 + c) py

/-- The pixels that the 1 bits of the sprite at I land on, byte by byte. -/
def spriteTargets (s : State) (x0 y0 n : Nat) : List (Nat × Nat) :=
  (List.range n).flatMap fun r => byteTargets s.params.spriteEdge x0 (y0 + r) (s.readByte (s.i.toNat + r))

/-- One pixel flipped, with the collision so far. -/
def flipTarget (acc : Display × Bool) (q : Nat × Nat) : Display × Bool :=
  (flipPixel acc.1 q.1 q.2, acc.2 || pixelOf acc.1 q.1 q.2)

/-! ### The draw is a fold over the targets -/

theorem drawByte_eq_foldl (e : SpriteEdge) (x0 py : Nat) (b : Byte) (acc : Display × Bool) :
    drawByte e x0 py b acc = (byteTargets e x0 py b).foldl flipTarget acc := by
  rw [byteTargets, List.foldl_filterMap, List.foldl_filter, drawByte]
  congr 1
  funext a c
  simp only [drawBit]
  cases place e (x0 + c) py <;> rfl

theorem drawSprite_eq_foldl (s : State) (x0 y0 n : Nat) :
    s.drawSprite x0 y0 n = (spriteTargets s x0 y0 n).foldl flipTarget (s.display, false) := by
  simp only [State.drawSprite, drawByte_eq_foldl, spriteTargets, List.foldl_flatMap, State.indexAddr]

/-! ### Flips of different pixels -/

theorem foldl_flipTarget_display {l : List (Nat × Nat)} (hscreen : ∀ q ∈ l, q.1 < 64 ∧ q.2 < 32) (hnodup : l.Nodup)
    (acc : Display × Bool) (p : Nat × Nat) :
    pixelOf (l.foldl flipTarget acc).1 p.1 p.2 = if p ∈ l then !pixelOf acc.1 p.1 p.2 else pixelOf acc.1 p.1 p.2 := by
  induction l generalizing acc with
  | nil => simp
  | cons q l ih =>
    obtain ⟨hq, hl⟩ := List.nodup_cons.mp hnodup
    obtain ⟨hqx, hqy⟩ := hscreen q List.mem_cons_self
    have hflip : pixelOf (flipTarget acc q).1 p.1 p.2 =
        if p = q then !pixelOf acc.1 q.1 q.2 else pixelOf acc.1 p.1 p.2 := by
      simp only [flipTarget, pixelOf_flipPixel acc.1 hqx hqy, Prod.ext_iff]
    rw [List.foldl_cons, ih (fun r hr => hscreen r (List.mem_cons_of_mem q hr)) hl, hflip]
    by_cases hp : p = q
    · subst hp; simp [hq]
    · simp [hp]

theorem foldl_flipTarget_collision {l : List (Nat × Nat)} (hscreen : ∀ q ∈ l, q.1 < 64 ∧ q.2 < 32) (hnodup : l.Nodup)
    (acc : Display × Bool) :
    (l.foldl flipTarget acc).2 = (acc.2 || l.any fun q => pixelOf acc.1 q.1 q.2) := by
  induction l generalizing acc with
  | nil => simp
  | cons q l ih =>
    obtain ⟨hq, hl⟩ := List.nodup_cons.mp hnodup
    obtain ⟨hqx, hqy⟩ := hscreen q List.mem_cons_self
    have hkept : ∀ r ∈ l, pixelOf (flipTarget acc q).1 r.1 r.2 = pixelOf acc.1 r.1 r.2 := by
      intro r hr
      have hne : r ≠ q := fun h => hq (h ▸ hr)
      simp only [flipTarget, pixelOf_flipPixel acc.1 hqx hqy, ← Prod.ext_iff, if_neg hne]
    rw [List.foldl_cons, ih (fun r hr => hscreen r (List.mem_cons_of_mem q hr)) hl, List.any_cons, ← Bool.or_assoc]
    congr 1
    rw [Bool.eq_iff_iff, List.any_eq_true, List.any_eq_true]
    exact exists_congr fun r => and_congr_right fun hr => by rw [hkept r hr]

/-! ### Where the bits land -/

theorem place_injective {e : SpriteEdge} {x0 y0 c c' r r' : Nat} {q : Nat × Nat} (hc : c < 8) (hc' : c' < 8)
    (hr : r < 32) (hr' : r' < 32) (h : place e (x0 + c) (y0 + r) = some q)
    (h' : place e (x0 + c') (y0 + r') = some q) : c = c' ∧ r = r' := by
  cases e
  case clip =>
    simp only [place, Option.ite_none_right_eq_some, Option.some.injEq, Prod.ext_iff] at h h'
    omega
  case wrap =>
    simp only [place, Option.some.injEq, Prod.ext_iff] at h h'
    omega

theorem mem_byteTargets {e : SpriteEdge} {x0 py : Nat} {b : Byte} {q : Nat × Nat} :
    q ∈ byteTargets e x0 py b ↔ ∃ c, c < 8 ∧ b.toNat.testBit (7 - c) = true ∧ place e (x0 + c) py = some q := by
  simp [byteTargets, BitVec.testBit_toNat, and_assoc]

theorem mem_spriteTargets {s : State} {x0 y0 n : Nat} {q : Nat × Nat} :
    q ∈ spriteTargets s x0 y0 n ↔ ∃ r, r < n ∧ ∃ c, c < 8 ∧
      (s.readByte (s.i.toNat + r)).toNat.testBit (7 - c) = true ∧
      place s.params.spriteEdge (x0 + c) (y0 + r) = some q := by
  simp only [spriteTargets, List.mem_flatMap, List.mem_range, mem_byteTargets]

theorem spriteTargets_on_screen (s : State) (x0 y0 n : Nat) : ∀ q ∈ spriteTargets s x0 y0 n, q.1 < 64 ∧ q.2 < 32 := by
  intro q hq
  obtain ⟨r, _, c, _, _, hplace⟩ := mem_spriteTargets.mp hq
  exact place_on_screen hplace

/-- On the screen, a target is a pixel the sprite hits. -/
theorem mem_spriteTargets_iff_hits (s : State) {x0 y0 n px py : Nat} (hx : px < 64) (hy : py < 32) :
    (px, py) ∈ spriteTargets s x0 y0 n ↔ SpriteHits s x0 y0 n px py := by
  have hplace (e : SpriteEdge) (qx qy : Nat) : place e qx qy = some (px, py) ↔
      (e = .clip ∧ px = qx ∧ py = qy) ∨ (e = .wrap ∧ px = qx % 64 ∧ py = qy % 32) := by
    cases e <;> simp [place] <;> omega
  rw [mem_spriteTargets]
  simp only [hplace, SpriteHits]
  cases s.params.spriteEdge <;> simp

theorem byteTargets_nodup (e : SpriteEdge) (x0 py : Nat) (b : Byte) : (byteTargets e x0 py b).Nodup := by
  refine List.pairwise_filterMap.mpr ?_
  refine (List.nodup_range.filter _).imp_of_mem ?_
  intro c c' hc hc' hne q hq q' hq' hqq
  have hlt : c < 8 := List.mem_range.mp (List.mem_of_mem_filter hc)
  have hlt' : c' < 8 := List.mem_range.mp (List.mem_of_mem_filter hc')
  subst hqq
  exact hne (place_injective (r := 0) (r' := 0) hlt hlt' (by decide) (by decide) hq hq').1

theorem spriteTargets_nodup (s : State) {x0 y0 n : Nat} (hn : n ≤ 32) : (spriteTargets s x0 y0 n).Nodup := by
  refine List.pairwise_flatMap.mpr ⟨fun r _ => byteTargets_nodup _ _ _ _, ?_⟩
  refine List.nodup_range.imp_of_mem ?_
  intro r r' hr hr' hne q hq q' hq' hqq
  obtain ⟨c, hc, _, hplace⟩ := mem_byteTargets.mp hq
  obtain ⟨c', hc', _, hplace'⟩ := mem_byteTargets.mp hq'
  have hlt : r < n := List.mem_range.mp hr
  have hlt' : r' < n := List.mem_range.mp hr'
  subst hqq
  exact hne (place_injective hc hc' (by omega) (by omega) hplace hplace').2

/-! ### The state after a draw -/

theorem exec_drw_in {s : State} (x y : RegIdx) {n : Nibble} (h : n.toNat = 0 ∨ s.i.toNat + n.toNat - 1 ≤ 0xFFF) :
    exec (.drw x y n) s = .next (s.drawnSprite x y n) := by
  rcases Nat.eq_zero_or_pos n.toNat with hn | hn
  · exact exec_drw_none s x y hn
  · exact (exec_drw_checked x y hn).trans (rangeChecked_in (h.resolve_left (Nat.ne_of_gt hn)))

theorem originY_eq (s : State) (y : RegIdx) :
    s.originY y = (s.getV y).toNat % (if s.params.drawYModulus = .rows32 then 32 else 64) := by
  unfold State.originY
  cases s.params.drawYModulus <;> rfl

theorem drawSprite_of_origin (s : State) (x y : RegIdx) (n : Nibble) :
    s.drawSprite (s.originX x) (s.originY y) n.toNat =
      (spriteTargets s (s.originX x) (s.originY y) n.toNat).foldl flipTarget (s.display, false) :=
  drawSprite_eq_foldl s _ _ _

/-- A draw has 15 rows at most, so no row comes round to another. -/
theorem spriteTargets_nibble_nodup (s : State) (x0 y0 : Nat) (n : Nibble) : (spriteTargets s x0 y0 n.toNat).Nodup :=
  spriteTargets_nodup s (by have := n.isLt; omega)

theorem getPixel_drawnSprite (s : State) (x y : RegIdx) (n : Nibble) (px py : Nat) :
    (s.drawnSprite x y n).getPixel px py =
      if (px, py) ∈ spriteTargets s (s.originX x) (s.originY y) n.toNat then !s.getPixel px py
      else s.getPixel px py := by
  change pixelOf (s.drawSprite _ _ _).1 px py = _
  rw [drawSprite_of_origin]
  exact foldl_flipTarget_display (spriteTargets_on_screen s _ _ _) (spriteTargets_nibble_nodup s _ _ n) _ (px, py)

theorem getV_VF_drawnSprite (s : State) (x y : RegIdx) (n : Nibble) :
    (s.drawnSprite x y n).getV 0xF =
      flagByte ((spriteTargets s (s.originX x) (s.originY y) n.toNat).any fun q => s.getPixel q.1 q.2) := by
  refine (getV_setV_same _ regVF _).trans ?_
  rw [drawSprite_of_origin,
    foldl_flipTarget_collision (spriteTargets_on_screen s _ _ _) (spriteTargets_nibble_nodup s _ _ n)]
  rfl

theorem lit_target_iff (s : State) (x0 y0 n : Nat) :
    ((spriteTargets s x0 y0 n).any fun q => s.getPixel q.1 q.2) = true ↔
      ∃ px py, px < 64 ∧ py < 32 ∧ SpriteHits s x0 y0 n px py ∧ s.getPixel px py = true := by
  rw [List.any_eq_true]
  constructor
  · rintro ⟨⟨px, py⟩, hmem, hlit⟩
    obtain ⟨hx, hy⟩ := spriteTargets_on_screen s x0 y0 n _ hmem
    exact ⟨px, py, hx, hy, (mem_spriteTargets_iff_hits s hx hy).mp hmem, hlit⟩
  · rintro ⟨px, py, hx, hy, hhits, hlit⟩
    exact ⟨(px, py), (mem_spriteTargets_iff_hits s hx hy).mpr hhits, hlit⟩

/-- Settles O28: the draw flips its targets, each once, and a target on the screen is a pixel hit. -/
theorem drawFlipsAndReportsCollision : Obligations.DrawFlipsAndReportsCollision := by
  intro x y n s x0 y0 hx0 hy0 hrange
  obtain rfl : x0 = s.originX x := hx0
  obtain rfl : y0 = s.originY y := hy0.trans (originY_eq s y).symm
  refine ⟨s.drawnSprite x y n, exec_drw_in x y hrange, fun px py hx hy => ⟨fun hhit => ?flipped, fun hmiss => ?kept⟩,
    fun hlit => ?collision, fun hlit => ?clear, rfl, fun r hr => ?registers, fun _ => rfl, ⟨rfl, rfl, rfl⟩, ⟨rfl, rfl⟩,
    rfl, ⟨rfl, rfl, rfl, rfl, rfl, rfl⟩⟩
  case flipped => rw [getPixel_drawnSprite, if_pos ((mem_spriteTargets_iff_hits s hx hy).mpr hhit)]
  case kept => rw [getPixel_drawnSprite, if_neg (fun h => hmiss ((mem_spriteTargets_iff_hits s hx hy).mp h))]
  case collision => rw [getV_VF_drawnSprite, (lit_target_iff s _ _ _).mpr hlit]; rfl
  case clear =>
    rw [← lit_target_iff, Bool.not_eq_true] at hlit
    rw [getV_VF_drawnSprite, hlit]; rfl
  case registers => exact getV_setV_other _ _ (by simpa [regVF] using hr)

end Sys2Proof.Machine
end
